-- ==== Sys2Proof/Word.lean ====
section
/-! DEFINITION. The widths the core works with (R10, R11, R70): bytes, 128-bit blocks, the 32-bit words of the
AES key schedule and the 144-bit command word. -/

namespace Sys2Proof

/-- `B8` of R10. -/
abbrev Byte := BitVec 8

/-- A Block, `B128` of R10 and R11: sixteen bytes read as one 128-bit big-endian integer. -/
abbrev Block := BitVec 128

/-- A word of the AES key schedule: four bytes, the first one the most significant (R91). -/
abbrev Word32 := BitVec 32

/-- `B144` of R10, the command word `cmd[143:0]` (R70). -/
abbrev CmdWord := BitVec 144

end Sys2Proof
end

