-- ==== Sys2Proof/Syntax.lean ====
section
/-! DEFINITION. The ten commands of EPC-1 (R4, R74), one constructor per row of `spec/opcode_table.json`, each with
exactly the fields the command uses (R75: a field it does not use is not recorded). -/

namespace Sys2Proof

/-- A command of the core. -/
inductive Instr where
  /-- NOP, `op = 0x00` (R150). -/
  | nop
  /-- LOADKEY, `op = 0x01` (R113): `key` is `cmd.data`. -/
  | loadkey (key : Block)
  /-- INIT, `op = 0x02` (R132): `iv` is `cmd.data`. -/
  | init (iv : Block)
  /-- ABSORB, `op = 0x03` (R134): `len` is `cmd.len` as it stands, 0 to 255; `data` is `cmd.data` with the bits
  that R75 has ignored at zero. -/
  | absorb (len : Byte) (data : Block)
  /-- FINAL, `op = 0x04` (R135). -/
  | final
  /-- ENC, `op = 0x05` (R102): `block` is `cmd.data`. -/
  | enc (block : Block)
  /-- RDKEY, `op = 0x06` (R114). -/
  | rdkey
  /-- RDK1, `op = 0x07` (R115). -/
  | rdk1
  /-- RDK2, `op = 0x08` (R116). -/
  | rdk2
  /-- CLR, `op = 0x09` (R151). -/
  | clr
  deriving DecidableEq, Repr

end Sys2Proof
end

