-- ==== Sys2Proof/WellFormed.lean ====
section
/-! DEFINITION. Which terms of `Instr` are commands of the core in their canonical form (R80). -/

namespace Sys2Proof

/-- The low `128 - 8*len` bits of an ABSORB's data field, which R75 has ignored, are zero, as R80's canonical word
has them: nothing is left of `data` after its first `len` bytes are shifted out. From `len = 16` on no bit is ignored. -/
def absorbDataCanonical (len : Byte) (data : Block) : Bool :=
  data <<< (8 * len.toNat) == 0#128

/-- The canonical commands (R80). `len` above 16 is well-formed: R77 calls it a legal opcode with an illegal operand,
which the machine, not the decoder, answers with the LENGTH fault. -/
def Instr.wellFormed (i : Instr) : Bool :=
  match i with
  | .nop => true
  | .loadkey _ => true
  | .init _ => true
  | .absorb len data => absorbDataCanonical len data
  | .final => true
  | .enc _ => true
  | .rdkey => true
  | .rdk1 => true
  | .rdk2 => true
  | .clr => true

end Sys2Proof
end

