-- ==== Sys2Proof/Decode.lean ====
section
/-! DEFINITION. The decoder from the 144-bit command word (R70 to R77, R82), total, rejecting a reserved opcode by
name; the 18-byte frame of R72; and the encoder of canonical words (R80), written from the same table R74. -/

namespace Sys2Proof

/-- Why a word or a frame is no command. -/
inductive DecodeError where
  /-- The opcode is one of the reserved `0x0A` to `0xFF` (R76). The machine answers it with ILLEGAL_OPCODE. -/
  | illegalOpcode (op : Byte)
  /-- Fewer than the 18 bytes of a frame (R72); `available` of them are there. A command word is never short. -/
  | shortFrame (available : Nat)
  deriving DecidableEq, Repr

/-! ### The fields of format C (R71) -/

/-- `cmd[143:136]`, the opcode. -/
def cmdOp (w : CmdWord) : Byte := w.extractLsb' 136 8

/-- `cmd[135:128]`, the byte count of ABSORB. -/
def cmdLen (w : CmdWord) : Byte := w.extractLsb' 128 8

/-- `cmd[127:0]`, the Block operand. -/
def cmdData (w : CmdWord) : Block := w.extractLsb' 0 128

/-- The word with the three fields given, `op || len || data` (R71). -/
def mkWord (op len : Byte) (data : Block) : CmdWord := (op ++ len ++ data : BitVec (8 + 8 + 128))

/-- An ABSORB's data with the low `128 - 8*len` bits, which R75 has ignored, at zero. -/
def keepBytes (len : Byte) (data : Block) : Block :=
  (data >>> (128 - 8 * len.toNat)) <<< (128 - 8 * len.toNat)

/-- The decoder: R74's table on `op` alone; every other opcode is reserved (R76). -/
def decode (w : CmdWord) : Except DecodeError Instr :=
  if cmdOp w = 0x00#8 then .ok .nop
  else if cmdOp w = 0x01#8 then .ok (.loadkey (cmdData w))
  else if cmdOp w = 0x02#8 then .ok (.init (cmdData w))
  else if cmdOp w = 0x03#8 then .ok (.absorb (cmdLen w) (keepBytes (cmdLen w) (cmdData w)))
  else if cmdOp w = 0x04#8 then .ok .final
  else if cmdOp w = 0x05#8 then .ok (.enc (cmdData w))
  else if cmdOp w = 0x06#8 then .ok .rdkey
  else if cmdOp w = 0x07#8 then .ok .rdk1
  else if cmdOp w = 0x08#8 then .ok .rdk2
  else if cmdOp w = 0x09#8 then .ok .clr
  else .error (.illegalOpcode (cmdOp w))

/-! ### Frames (R72): eighteen bytes, the most significant first -/

/-- The word whose bytes, most significant first, are those of the list. -/
def wordOfFrame (bytes : List Byte) : CmdWord :=
  bytes.foldl (fun acc b => (acc <<< 8) ||| b.setWidth 144) 0#144

/-- The eighteen bytes of a word in the order they travel. -/
def frameOfWord (w : CmdWord) : List Byte :=
  (List.range 18).map fun i => w.extractLsb' (136 - 8 * i) 8

/-- Reads one command from the front of a byte stream and gives it with the bytes after it. -/
def decodeFrame (bytes : List Byte) : Except DecodeError (Instr × List Byte) :=
  if bytes.length < 18 then .error (.shortFrame bytes.length)
  else
    match decode (wordOfFrame (bytes.take 18)) with
    | .ok i => .ok (i, bytes.drop 18)
    | .error e => .error e

/-- The command of an opcode-table row's word. The table's rows are one word of 144 bits numbered as `cmd[143:0]`
(R78), so the number is the word; it is laid out as the frame of R72 and given to the decoder. -/
def decodeTableWord (nbits w : Nat) : Option Instr :=
  match decodeFrame (frameOfWord (BitVec.ofNat 144 (w % 2 ^ nbits))) with
  | .ok (i, _) => some i
  | .error _ => none

/-! ### The encoder -/

/-- The opcode of a command (R74). -/
def opcode (i : Instr) : Byte :=
  match i with
  | .nop => 0x00#8
  | .loadkey _ => 0x01#8
  | .init _ => 0x02#8
  | .absorb _ _ => 0x03#8
  | .final => 0x04#8
  | .enc _ => 0x05#8
  | .rdkey => 0x06#8
  | .rdk1 => 0x07#8
  | .rdk2 => 0x08#8
  | .clr => 0x09#8

/-- The canonical word of a command: zero in every field it does not use (R80). -/
def encode (i : Instr) : CmdWord :=
  match i with
  | .nop => mkWord (opcode .nop) 0#8 0#128
  | .loadkey key => mkWord (opcode (.loadkey key)) 0#8 key
  | .init iv => mkWord (opcode (.init iv)) 0#8 iv
  | .absorb len data => mkWord (opcode (.absorb len data)) len data
  | .final => mkWord (opcode .final) 0#8 0#128
  | .enc block => mkWord (opcode (.enc block)) 0#8 block
  | .rdkey => mkWord (opcode .rdkey) 0#8 0#128
  | .rdk1 => mkWord (opcode .rdk1) 0#8 0#128
  | .rdk2 => mkWord (opcode .rdk2) 0#8 0#128
  | .clr => mkWord (opcode .clr) 0#8 0#128

/-- The canonical frame of a command (R72, R80). -/
def encodeFrame (i : Instr) : List Byte := frameOfWord (encode i)

end Sys2Proof
end

