-- ==== Sys2Proof/Config.lean ====
section
/-! DEFINITION. What R9 leaves as a parameter of the model: the block cipher (R90, decision D1).
The other parameters of R9 are fixed (widths, `Rb`, the padding byte) or have no effect on any rule
(`LAT_*`, the polarity and synchrony of `rst`). -/

namespace Sys2Proof

/-- The configuration of a core. `encrypt key block` is the contract `Encrypt(key, block)` of R90, total and pure.
The hardware's value, AES-128, is `Machine.Config.hardware` in `Machine/Aes.lean`. -/
structure Config where
  encrypt : Block → Block → Block

end Sys2Proof
end

