-- ==== Sys2Proof/Machine/State.lean ====
section
/-! DEFINITION. The state of the core: the eleven registers and flags of R20 (the twelfth item of R20's table, the
cipher, is a parameter and not state), and, as the model's own field, what the host drives on the input ports (R64).
All of it is plain data. -/

namespace Sys2Proof.Machine

/-- What the register `ERR` can hold (R31, R161). The codes 5, 6 and 7 are never produced and the type leaves them out,
as `93_implementation_defined.md` U6 asks. `Flags.lean` gives the three bits of each. -/
inductive ErrCode where
  /-- 0: no fault is recorded. -/
  | none
  /-- 1: `cmd.op` is reserved. -/
  | illegalOpcode
  /-- 2: the command needs a KeyMaterial and there is none. -/
  | noKey
  /-- 3: the command is out of order. -/
  | sequence
  /-- 4: an ABSORB of more than 16 bytes. -/
  | length
  deriving DecidableEq, Repr

/-- What the host drives on the core's input ports at one clock edge at which `cmd_ready = 1` (R64, R65). -/
structure HostInput where
  /-- The reset request, asserted or not; its polarity is open (R185). -/
  rst : Bool
  /-- `cmd_valid`. -/
  cmdValid : Bool
  /-- `cmd[143:0]`. -/
  cmd : CmdWord
  deriving DecidableEq, Repr

/-- The state of the machine. -/
structure State where
  /-- `KEY`, the raw key (R21). -/
  key : Block
  /-- `K1`, subkey1 (R22). -/
  k1 : Block
  /-- `K2`, subkey2 (R23). -/
  k2 : Block
  /-- `CV`, the chaining value (R24). -/
  cv : Block
  /-- `BUF`, the message bytes not yet chained (R25). -/
  buf : Block
  /-- `BUFLEN`, how many bytes of `BUF` are message bytes, 0 to 16 (R26). -/
  bufLen : Fin 17
  /-- `DOUT`, the result register (R27). -/
  dout : Block
  /-- `KV`, key valid (R28). -/
  kv : Bool
  /-- `MA`, message active (R29). -/
  ma : Bool
  /-- `DV`, data valid (R30). -/
  dv : Bool
  /-- `ERR`, the code of the first fault (R31). -/
  err : ErrCode
  /-- The model's own field: what the host will drive on the ports, the next sample first (R17, R65). No command reads
  or writes it; `step` takes one sample from it. -/
  inputs : List HostInput
  deriving DecidableEq, Repr

/-- Why the machine would stop. It never does: every fault of this core is a NEXT state with `ERR` written (R163),
every accepted command completes (R195), and no rule of the spec stops the machine. The type is therefore empty: no
one raises a fault, which is safe. -/
inductive Fault : Type
  deriving DecidableEq, Repr

/-- Why the model would give an instruction no meaning. -/
inductive Refusal where
  /-- Raised by an arm of `exec` whose instruction has no meaning yet; safe, since nothing is claimed of it. No arm
  raises it: all ten commands have their meaning. -/
  | notModelled (mnemonic : String)
  deriving DecidableEq, Repr

/-- The state after reset (R39, R185): every register and flag zero, and nothing on the ports. -/
def State.reset : State where
  key := 0#128
  k1 := 0#128
  k2 := 0#128
  cv := 0#128
  buf := 0#128
  bufLen := 0
  dout := 0#128
  kv := false
  ma := false
  dv := false
  err := .none
  inputs := []

end Sys2Proof.Machine
end

