-- ==== Sys2Proof/Machine/Operands.lean ====
section
/-! DEFINITION. The bytes of a Block (R11, R51), the message bytes of an ABSORB (R52, R73) and the padding (R127). -/

namespace Sys2Proof.Machine

/-- `byte(v, i)` of R11, for `i` in 0..15: byte 0 is the most significant. No rule names a byte beyond 15. -/
def byte (v : Block) (i : Nat) : Byte := v.extractLsb' (120 - 8 * i) 8

/-- The Block whose bytes are those of a list of sixteen, the first one the most significant (R11). -/
def packBytes (bytes : List Byte) : Block :=
  bytes.foldl (fun acc b => (acc <<< 8) ||| b.setWidth 128) 0#128

/-- The Block with `byte i = f i` for `i` in 0..15. -/
def blockOfFn (f : Nat → Byte) : Block := packBytes ((List.range 16).map f)

/-- The Block whose first bytes are those of the list, the rest zero: a slice of a message placed at the front of a
Block (R125, R127). -/
def blockOfBytes (bytes : List Byte) : Block := blockOfFn fun i => bytes.getD i 0#8

/-- `setbyte(v, i, b)` of R11: `v` with byte `i` replaced. -/
def setByte (v : Block) (i : Nat) (b : Byte) : Block := blockOfFn fun j => if j = i then b else byte v j

/-- The message bytes of an ABSORB with `cmd.len = n`: the first `n` bytes of `cmd.data` in order (R52). -/
def messageBytes (n : Nat) (data : Block) : List Byte := (List.range n).map (byte data)

/-- The padding byte `0x80` (R9, R127). -/
def padByte : Byte := 0x80#8

/-- `pad(buf, t)` of R127: the first `t` bytes, one `0x80`, then zeros. -/
def pad (buf : Block) (t : Nat) : Block :=
  blockOfFn fun i => if i < t then byte buf i else if i = t then padByte else 0#8

end Sys2Proof.Machine
end

