-- ==== Sys2Proof/Machine/Ops.lean ====
section
/-! DEFINITION. The operations the commands share: taking a fault and leaving FAULT (R163 to R165), the checks of R162
in the order a command makes them, and the writes of the registers. Each is a function on State; a meaning is a
composition of them. -/

namespace Sys2Proof.Machine

/-! ### Fault entry and the return from FAULT -/

/-- `raise Fault(code)` (R15, R163): `ERR` is written and nothing else. The checks below call it only when no fault is
recorded, so that the first code is kept (R31). -/
def State.raise (s : State) (c : ErrCode) : State := { s with err := c }

/-- Every register and flag at its reset value (R39): what CLR does (R151) and what `rst` does (R185), the two ways out
of FAULT (R165). What the host drives is not the core's and stays. -/
def State.clear (s : State) : State := { State.reset with inputs := s.inputs }

/-! ### The checks of R162; `t` is the state when the check and those after it pass -/

/-- Check 3, the lock (R164): in phase FAULT the command is ignored. -/
def ignoreInFault (s t : State) : State := if s.err = .none then t else s

/-- Check 5: the command needs a KeyMaterial. -/
def needKey (s t : State) : State := if s.kv then t else s.raise .noKey

/-- Check 6 of ABSORB and FINAL: a message is in progress. -/
def needMessage (s t : State) : State := if s.ma then t else s.raise .sequence

/-- Check 6 of LOADKEY: no message is in progress. -/
def needNoMessage (s t : State) : State := if s.ma then s.raise .sequence else t

/-- Check 7 of ABSORB: the beat has at most 16 bytes. -/
def needLength (len : Byte) (s t : State) : State := if len.toNat ≤ 16 then t else s.raise .length

/-! ### Register writes -/

/-- The KeyMaterial of R111 and the glossary: rawKey and its two subkeys. -/
structure KeyMaterial where
  rawKey : Block
  subkey1 : Block
  subkey2 : Block
  deriving DecidableEq, Repr

/-- The writes of LOADKEY (R113): the three registers together, and `KV`. -/
def storeKey (km : KeyMaterial) (s : State) : State :=
  { s with key := km.rawKey, k1 := km.subkey1, k2 := km.subkey2, kv := true }

/-- A result is delivered (R27, R30): `DOUT` is written and `DV` set. -/
def deliver (v : Block) (s : State) : State := { s with dout := v, dv := true }

/-- The writes of INIT (R132). -/
def beginMessage (iv : Block) (s : State) : State :=
  { s with cv := iv, buf := 0#128, bufLen := 0, ma := true }

/-- The first part of `absorb_byte` (R133): the full block in `BUF` is chained. -/
def chainBlock (cfg : Config) (s : State) : State :=
  { s with cv := cfg.encrypt s.key (s.cv ^^^ s.buf), buf := 0#128, bufLen := 0 }

/-- The second part of `absorb_byte` (R133): the byte goes to position `BUFLEN`. It is reached with `BUFLEN` below 16
only, so the sum is at most 16. -/
def putByte (b : Byte) (s : State) : State :=
  { s with buf := setByte s.buf s.bufLen.val b, bufLen := s.bufLen + 1 }

/-- `absorb_byte(b)` (R133). -/
def absorbByte (cfg : Config) (s : State) (b : Byte) : State :=
  putByte b (if s.bufLen = 16 then chainBlock cfg s else s)

/-- The writes of FINAL once the tag is known (R135). -/
def endMessage (tag : Block) (s : State) : State :=
  { deliver tag s with cv := tag, buf := 0#128, bufLen := 0, ma := false }

end Sys2Proof.Machine
end

