-- ==== Sys2Proof/Machine/Aes.lean ====
section
/-! DEFINITION. AES-128 (R91 to R100), the hardware's value of the cipher parameter (R3, decision D1). The spec supplies
these rules from general knowledge and checked them against the source's known-answer tests.

The AES state of R91 is held as the Block it is filled from: `s[r][c]` is byte `r + 4*c`. -/

namespace Sys2Proof.Machine

/-! ### Byte arithmetic (R92) -/

/-- `xtime`: multiplication by `x` modulo `0x11B`. -/
def xtime (a : Byte) : Byte := if a.msb then (a <<< 1) ^^^ 0x1B#8 else a <<< 1

/-- `mul(a, 0x03)`. -/
def mul3 (a : Byte) : Byte := xtime a ^^^ a

/-- `mul(a, b)` in general: the xor, over the set bits `i` of `b`, of `xtime` applied `i` times to `a`. The cipher needs
only `xtime` and `mul3`; the S-box formula of R93 is stated with this one. -/
def gfMul (a b : Byte) : Byte :=
  (List.range 8).foldl (fun acc i => if b.getLsbD i then acc ^^^ xtime^[i] a else acc) 0#8

/-! ### The S-box (R93) -/

/-- The 256 entries as R93's one string of digits, entry `0x00` first. -/
def sboxTable : BitVec 2048 :=
  0x637c777bf26b6fc53001672bfed7ab76ca82c97dfa5947f0add4a2af9ca472c0b7fd9326363ff7cc34a5e5f171d8311504c723c31896059a071280e2eb27b27509832c1a1b6e5aa0523bd6b329e32f8453d100ed20fcb15b6acbbe394a4c58cfd0efaafb434d338545f9027f503c9fa851a3408f929d38f5bcb6da2110fff3d2cd0c13ec5f974417c4a77e3d645d197360814fdc222a908846eeb814de5e0bdbe0323a0a4906245cc2d3ac629195e479e7c8376d8dd54ea96c56f4ea657aae08ba78252e1ca6b4c6e8dd741f4bbd8b8a703eb5664803f60e613557b986c11d9ee1f8981169d98e949b1e87e9ce5528df8ca1890dbfe6426841992d0fb054bb16#2048

/-- `SBOX` (R93). -/
def sbox (a : Byte) : Byte := sboxTable.extractLsb' (2040 - 8 * a.toNat) 8

/-! ### The transformations (R94 to R97) -/

/-- `s[r][c]` of R91. -/
def cell (s : Block) (r c : Nat) : Byte := byte s (r + 4 * c)

/-- The Block whose state is `f r c` in row `r` and column `c` (R91). -/
def blockOfCells (f : Nat → Nat → Byte) : Block := blockOfFn fun i => f (i % 4) (i / 4)

/-- `SubBytes` (R94). -/
def subBytes (s : Block) : Block := blockOfCells fun r c => sbox (cell s r c)

/-- `ShiftRows` (R95): row `r` is rotated left by `r` positions. -/
def shiftRows (s : Block) : Block := blockOfCells fun r c => cell s r ((c + r) % 4)

/-- One row of `MixColumns` (R96) for a column `[a0, a1, a2, a3]`. -/
def mixCell (a0 a1 a2 a3 : Byte) (r : Nat) : Byte :=
  match r with
  | 0 => xtime a0 ^^^ mul3 a1 ^^^ a2 ^^^ a3
  | 1 => a0 ^^^ xtime a1 ^^^ mul3 a2 ^^^ a3
  | 2 => a0 ^^^ a1 ^^^ xtime a2 ^^^ mul3 a3
  | _ => mul3 a0 ^^^ a1 ^^^ a2 ^^^ xtime a3

/-- `MixColumns` (R96). -/
def mixColumns (s : Block) : Block :=
  blockOfCells fun r c => mixCell (cell s 0 c) (cell s 1 c) (cell s 2 c) (cell s 3 c) r

/-- `AddRoundKey` (R97). The round key is the Block `w[4j] || w[4j+1] || w[4j+2] || w[4j+3]`, whose byte `i` is byte
`i mod 4` of word `w[4j + i div 4]`. -/
def addRoundKey (s roundKey : Block) : Block := s ^^^ roundKey

/-! ### The key schedule (R98, R99) -/

/-- `RotWord` (R98). -/
def rotWord (w : Word32) : Word32 := w.rotateLeft 8

/-- `SubWord` (R98). -/
def subWord (w : Word32) : Word32 :=
  sbox (w.extractLsb' 24 8) ++ sbox (w.extractLsb' 16 8) ++ sbox (w.extractLsb' 8 8) ++ sbox (w.extractLsb' 0 8)

/-- `rc(j + 1)` of R98: `rc(1) = 0x01` and each next one is `xtime` of the one before. -/
def rcSucc (j : Nat) : Byte := xtime^[j] 0x01#8

/-- `Rcon(j + 1)` of R98: `[rc(j + 1), 0x00, 0x00, 0x00]`. -/
def rconSucc (j : Nat) : Word32 := rcSucc j ++ 0#24

/-- Word `c` of a round key, `c` in 0..3. -/
def wordOf (roundKey : Block) (c : Nat) : Word32 := roundKey.extractLsb' (96 - 32 * c) 32

/-- Round key `j + 1` from round key `j`: R99's recurrence for the four words `w[4j+4]` to `w[4j+7]`. -/
def nextRoundKey (j : Nat) (rk : Block) : Block :=
  let w0 := wordOf rk 0 ^^^ (subWord (rotWord (wordOf rk 3)) ^^^ rconSucc j)
  let w1 := wordOf rk 1 ^^^ w0
  let w2 := wordOf rk 2 ^^^ w1
  let w3 := wordOf rk 3 ^^^ w2
  w0 ++ w1 ++ w2 ++ w3

/-- Round key `j` (R97, R99). -/
def roundKey (key : Block) : Nat → Block
  | 0 => key
  | j + 1 => nextRoundKey j (roundKey key j)

/-- The word `w[i]` of `KeyExpansion(key)`, `i` in 0..43 (R99). -/
def keyWord (key : Block) (i : Nat) : Word32 := wordOf (roundKey key (i / 4)) (i % 4)

/-! ### The cipher (R100) -/

/-- The state after `j` full rounds: round key 0 is added first, and each full round mixes the columns. -/
def fullRounds (key block : Block) : Nat → Block
  | 0 => addRoundKey block (roundKey key 0)
  | j + 1 => addRoundKey (mixColumns (shiftRows (subBytes (fullRounds key block j)))) (roundKey key (j + 1))

/-- `AES128(key, block)`: nine full rounds, and a tenth without `MixColumns` (R100). -/
def aes128 (key block : Block) : Block :=
  addRoundKey (shiftRows (subBytes (fullRounds key block 9))) (roundKey key 10)

/-- The configuration of this hardware: its cipher is AES-128 (R3, R90). -/
def Config.hardware : Config := { encrypt := aes128 }

end Sys2Proof.Machine
end

