-- ==== Sys2Proof/Machine/BlockCipher.lean ====
section
/-! DEFINITION. Unit U1's command, ENC (R102). -/

namespace Sys2Proof.Machine

/-- ENC, for any cipher (R102). The key argument is the register `KEY` (R103). -/
def enc (cfg : Config) (block : Block) (s : State) : State :=
  ignoreInFault s (needKey s (deliver (cfg.encrypt s.key block) s))

/-- ENC on this hardware (R102). -/
def execEnc (block : Block) (s : State) : Host.Outcome State Fault Refusal :=
  .next (enc Config.hardware block s)

end Sys2Proof.Machine
end

