-- ==== Sys2Proof/Machine/Subkey.lean ====
section
/-! DEFINITION. Unit U2, the subkey-derivation engine (R110, R111), and the commands LOADKEY, RDKEY, RDK1 and RDK2
(R113 to R116). -/

namespace Sys2Proof.Machine

/-- The constant `Rb` (R9, R110). -/
def rb : Block := 0x87#128

/-- `dbl(x)` (R110). The test is on the top bit before the shift. -/
def dbl (x : Block) : Block := if x.msb then (x <<< 1) ^^^ rb else x <<< 1

/-- `New(rawKey)` (R111). -/
def newKeyMaterial (cfg : Config) (rawKey : Block) : KeyMaterial :=
  { rawKey := rawKey
    subkey1 := dbl (cfg.encrypt rawKey 0#128)
    subkey2 := dbl (dbl (cfg.encrypt rawKey 0#128)) }

/-! ### The commands, for any cipher -/

/-- LOADKEY (R113). -/
def loadkey (cfg : Config) (key : Block) (s : State) : State :=
  ignoreInFault s (needNoMessage s (storeKey (newKeyMaterial cfg key) s))

/-- RDKEY (R114). -/
def rdkey (s : State) : State := ignoreInFault s (needKey s (deliver s.key s))

/-- RDK1 (R115). -/
def rdk1 (s : State) : State := ignoreInFault s (needKey s (deliver s.k1 s))

/-- RDK2 (R116). -/
def rdk2 (s : State) : State := ignoreInFault s (needKey s (deliver s.k2 s))

/-! ### Their meanings on this hardware -/

/-- LOADKEY (R113). -/
def execLoadkey (key : Block) (s : State) : Host.Outcome State Fault Refusal :=
  .next (loadkey Config.hardware key s)

/-- RDKEY (R114). -/
def execRdkey (s : State) : Host.Outcome State Fault Refusal := .next (rdkey s)

/-- RDK1 (R115). -/
def execRdk1 (s : State) : Host.Outcome State Fault Refusal := .next (rdk1 s)

/-- RDK2 (R116). -/
def execRdk2 (s : State) : Host.Outcome State Fault Refusal := .next (rdk2 s)

end Sys2Proof.Machine
end

