-- ==== Sys2Proof/Machine/Cmac.lean ====
section
/-! DEFINITION. Unit U3, the message-chaining engine: the reference function `Compute` (R125 to R129) and the commands
INIT, ABSORB and FINAL (R132 to R135). -/

namespace Sys2Proof.Machine

/-! ### The reference function -/

/-- The number of blocks of a message of `m` bytes, at least one (R126). -/
def blockCount (m : Nat) : Nat := if m = 0 then 1 else (m + 15) / 16

/-- Whether the last block of a message of `m` bytes is complete (R126). -/
def lastIsComplete (m : Nat) : Bool := decide (0 < m) && decide (m % 16 = 0)

/-- The `i`-th full block of a message, counted from 0: `message[16*i .. 16*i + 16)` (R125). -/
def messageBlock (message : List Byte) (i : Nat) : Block := blockOfBytes ((message.drop (16 * i)).take 16)

/-- The last block, adjusted by its subkey (R127). -/
def lastBlock (km : KeyMaterial) (message : List Byte) : Block :=
  let tail := message.drop (16 * (blockCount message.length - 1))
  if lastIsComplete message.length then blockOfBytes tail ^^^ km.subkey1
  else pad (blockOfBytes tail) tail.length ^^^ km.subkey2

/-- The chaining value after the first `q` blocks (R128). -/
def chainValue (cfg : Config) (rawKey iv : Block) (message : List Byte) : Nat → Block
  | 0 => iv
  | q + 1 => cfg.encrypt rawKey (chainValue cfg rawKey iv message q ^^^ messageBlock message q)

/-- `Compute(key, iv, message)` (R125). -/
def compute (cfg : Config) (km : KeyMaterial) (iv : Block) (message : List Byte) : Block :=
  cfg.encrypt km.rawKey
    (chainValue cfg km.rawKey iv message (blockCount message.length - 1) ^^^ lastBlock km message)

/-! ### The commands, for any cipher -/

/-- INIT (R132). -/
def init (iv : Block) (s : State) : State := ignoreInFault s (needKey s (beginMessage iv s))

/-- The byte steps of an ABSORB, in order (R133, R134). -/
def absorbBytes (cfg : Config) (s : State) (bytes : List Byte) : State := bytes.foldl (absorbByte cfg) s

/-- ABSORB (R134). -/
def absorb (cfg : Config) (len : Byte) (data : Block) (s : State) : State :=
  ignoreInFault s (needKey s (needMessage s (needLength len s
    (absorbBytes cfg s (messageBytes len.toNat data)))))

/-- The last block as FINAL forms it from `BUF` (R135). -/
def finalBlock (s : State) : Block :=
  if s.bufLen = 16 then s.buf ^^^ s.k1 else pad s.buf s.bufLen.val ^^^ s.k2

/-- FINAL (R135). -/
def final (cfg : Config) (s : State) : State :=
  ignoreInFault s (needKey s (needMessage s
    (endMessage (cfg.encrypt s.key (s.cv ^^^ finalBlock s)) s)))

/-! ### Their meanings on this hardware -/

/-- INIT (R132). -/
def execInit (iv : Block) (s : State) : Host.Outcome State Fault Refusal := .next (init iv s)

/-- ABSORB (R134). -/
def execAbsorb (len : Byte) (data : Block) (s : State) : Host.Outcome State Fault Refusal :=
  .next (absorb Config.hardware len data s)

/-- FINAL (R135). -/
def execFinal (s : State) : Host.Outcome State Fault Refusal := .next (final Config.hardware s)

end Sys2Proof.Machine
end

