-- ==== Sys2Proof/Machine/System.lean ====
section
/-! DEFINITION. The system commands NOP and CLR (R150, R151) and what the core does with a word that is no command
(R76). -/

namespace Sys2Proof.Machine

/-- NOP (R150): nothing, in every phase. -/
def execNop (s : State) : Host.Outcome State Fault Refusal := .next s

/-- CLR (R151): every register to its reset value, in every phase. -/
def execClr (s : State) : Host.Outcome State Fault Refusal := .next s.clear

/-- A word with a reserved opcode (R76, check 4 of R162): ILLEGAL_OPCODE, or ignored in phase FAULT. -/
def execReserved (s : State) : Host.Outcome State Fault Refusal :=
  .next (ignoreInFault s (s.raise .illegalOpcode))

end Sys2Proof.Machine
end

