-- ==== Sys2Proof/Machine/Dispatch.lean ====
section
/-! DEFINITION. One arm per command: the meaning of each. -/

namespace Sys2Proof.Machine

/-- The effect of a command on the state. -/
def exec (i : Instr) (s : State) : Host.Outcome State Fault Refusal :=
  match i with
  | .nop => Sys2Proof.Machine.execNop s
  | .loadkey key => Sys2Proof.Machine.execLoadkey key s
  | .init iv => Sys2Proof.Machine.execInit iv s
  | .absorb len data => Sys2Proof.Machine.execAbsorb len data s
  | .final => Sys2Proof.Machine.execFinal s
  | .enc block => Sys2Proof.Machine.execEnc block s
  | .rdkey => Sys2Proof.Machine.execRdkey s
  | .rdk1 => Sys2Proof.Machine.execRdk1 s
  | .rdk2 => Sys2Proof.Machine.execRdk2 s
  | .clr => Sys2Proof.Machine.execClr s

end Sys2Proof.Machine
end

