-- ==== Sys2Proof/Machine/Ports.lean ====
section
/-! DEFINITION. What one sample of the input ports asks of the core (R65, R185). -/

namespace Sys2Proof.Machine

/-- What happens at an edge at which `cmd_ready = 1`. -/
inductive PortEvent where
  /-- Neither `rst` nor `cmd_valid`: nothing is accepted. -/
  | idle
  /-- `rst` is asserted. -/
  | reset
  /-- The command word is accepted. -/
  | command (w : CmdWord)
  deriving DecidableEq, Repr

/-- `rst` takes precedence over a command, which is then not accepted (R185); otherwise a word is accepted when
`cmd_valid = 1` (R65). -/
def portEvent (p : HostInput) : PortEvent :=
  if p.rst then .reset else if p.cmdValid then .command p.cmd else .idle

/-- The sample of a host that presents a command word and does not assert `rst`. -/
def present (w : CmdWord) : HostInput := { rst := false, cmdValid := true, cmd := w }

end Sys2Proof.Machine
end

