-- ==== Sys2Proof/Machine/Step.lean ====
section
/-! DEFINITION. One step: the host's next sample of the input ports is taken, and the core does what it asks (R17, R65).
With no sample left the host presents nothing and the state does not change (R65). -/

namespace Sys2Proof.Machine

/-- An accepted command word is decoded and executed (R62, R74, R76). -/
def acceptWord (w : CmdWord) (s : State) : Host.Outcome State Fault Refusal :=
  match decode w with
  | .ok i => exec i s
  | .error _ => execReserved s

/-- What the core does with an event of its ports. -/
def handle (e : PortEvent) (s : State) : Host.Outcome State Fault Refusal :=
  match e with
  | .idle => .next s
  | .reset => .next s.clear
  | .command w => acceptWord w s

/-- One step of the machine. -/
def step (s : State) : Host.Outcome State Fault Refusal :=
  match s.inputs with
  | [] => .next s
  | p :: rest => handle (portEvent p) { s with inputs := rest }

/-- The state in which the host presents the word next: the core fetches from no memory (R53, R62), its next command is
the one on the port. -/
def State.withFetchWord (s : State) (nbits w : Nat) : State :=
  { s with inputs := present (BitVec.ofNat 144 (w % 2 ^ nbits)) :: s.inputs }

end Sys2Proof.Machine
end

