-- ==== Sys2Proof/Machine/Assembler.lean ====
section
/-! DEFINITION. The textual form of the commands (R79), the canonical command an assembler makes of it (R80), the
pseudo-commands (R81), and the disassembler. A line of text is a list of characters. -/

namespace Sys2Proof.Machine

/-! ### Commands from byte strings (R80, R81) -/

/-- `ABSORB <bytes>` for 0 to 16 bytes: `len` is their number, `data` holds them left-justified (R79, R80). -/
def absorbBeat (bytes : List Byte) : Instr := .absorb (BitVec.ofNat 8 bytes.length) (blockOfBytes bytes)

/-- `INITZ` (R81). -/
def initz : List Instr := [.init 0#128]

/-- `ABSORBMSG` (R81): full beats in message order, then one of the rest if there is a rest. -/
def absorbMsg (message : List Byte) : List Instr :=
  (List.range ((message.length + 15) / 16)).map fun i => absorbBeat ((message.drop (16 * i)).take 16)

/-- `CMAC <key>, <iv>, <msg>` (R81). -/
def cmac (key iv : Block) (message : List Byte) : List Instr :=
  [.loadkey key, .init iv] ++ absorbMsg message ++ [.final]

/-- `NEWKEY <key>` (R81). -/
def newkey (key : Block) : List Instr := [.clr, .loadkey key]

/-! ### Hexadecimal text (R79): byte 0 first, two digits a byte -/

/-- The digits in the order of their values. -/
def hexDigits : List Char :=
  ['0', '1', '2', '3', '4', '5', '6', '7', '8', '9', 'a', 'b', 'c', 'd', 'e', 'f']

/-- The value of a digit, in either case. -/
def hexValue (c : Char) : Option Nat :=
  if '0' ≤ c ∧ c ≤ '9' then some (c.toNat - 48)
  else if 'a' ≤ c ∧ c ≤ 'f' then some (c.toNat - 87)
  else if 'A' ≤ c ∧ c ≤ 'F' then some (c.toNat - 55)
  else none

/-- The bytes of an even number of digits. -/
def bytesOfHex : List Char → Option (List Byte)
  | [] => some []
  | [_] => none
  | hi :: lo :: rest =>
    match hexValue hi, hexValue lo, bytesOfHex rest with
    | some h, some l, some bs => some (BitVec.ofNat 8 (16 * h + l) :: bs)
    | _, _, _ => none

/-- The Block of exactly 32 digits. -/
def blockOfHex (digits : List Char) : Option Block :=
  match bytesOfHex digits with
  | some bs => if bs.length = 16 then some (blockOfBytes bs) else none
  | none => none

/-- The two digits of a byte. -/
def hexOfByte (b : Byte) : List Char :=
  [hexDigits.getD (b.toNat / 16) '0', hexDigits.getD (b.toNat % 16) '0']

/-- The digits of a byte string. -/
def hexOfBytes (bs : List Byte) : List Char := bs.flatMap hexOfByte

/-- The 32 digits of a Block. -/
def hexOfBlock (v : Block) : List Char := hexOfBytes (messageBytes 16 v)

/-! ### The mnemonics -/

def mnNop : List Char := ['N', 'O', 'P']
def mnLoadkey : List Char := ['L', 'O', 'A', 'D', 'K', 'E', 'Y']
def mnInit : List Char := ['I', 'N', 'I', 'T']
def mnAbsorb : List Char := ['A', 'B', 'S', 'O', 'R', 'B']
def mnFinal : List Char := ['F', 'I', 'N', 'A', 'L']
def mnEnc : List Char := ['E', 'N', 'C']
def mnRdkey : List Char := ['R', 'D', 'K', 'E', 'Y']
def mnRdk1 : List Char := ['R', 'D', 'K', '1']
def mnRdk2 : List Char := ['R', 'D', 'K', '2']
def mnClr : List Char := ['C', 'L', 'R']
def mnInitz : List Char := ['I', 'N', 'I', 'T', 'Z']
def mnAbsorbmsg : List Char := ['A', 'B', 'S', 'O', 'R', 'B', 'M', 'S', 'G']
def mnCmac : List Char := ['C', 'M', 'A', 'C']
def mnNewkey : List Char := ['N', 'E', 'W', 'K', 'E', 'Y']

/-! ### A line of text to commands -/

/-- The words of a line: spaces and commas separate them, `#` starts a comment (R79, conflict C8). -/
def lineWords (line : List Char) : List (List Char) :=
  ((line.takeWhile (· ≠ '#')).splitOnP fun c => c = ' ' || c = ',').filter fun w => !w.isEmpty

/-- A command with one Block operand. -/
def withBlock (digits : List Char) (f : Block → List Instr) : Option (List Instr) := (blockOfHex digits).map f

/-- A command with no operand. -/
def assembleBare (mn : List Char) : Option (List Instr) :=
  if mn = mnNop then some [.nop]
  else if mn = mnAbsorb then some [absorbBeat []]
  else if mn = mnFinal then some [.final]
  else if mn = mnRdkey then some [.rdkey]
  else if mn = mnRdk1 then some [.rdk1]
  else if mn = mnRdk2 then some [.rdk2]
  else if mn = mnClr then some [.clr]
  else if mn = mnInitz then some initz
  else if mn = mnAbsorbmsg then some (absorbMsg [])
  else none

/-- A command with one operand. -/
def assembleUnary (mn digits : List Char) : Option (List Instr) :=
  if mn = mnLoadkey then withBlock digits fun v => [.loadkey v]
  else if mn = mnInit then withBlock digits fun v => [.init v]
  else if mn = mnEnc then withBlock digits fun v => [.enc v]
  else if mn = mnNewkey then withBlock digits newkey
  else if mn = mnAbsorb then
    (bytesOfHex digits).bind fun bs => if bs.length ≤ 16 then some [absorbBeat bs] else none
  else if mn = mnAbsorbmsg then (bytesOfHex digits).map absorbMsg
  else none

/-- The pseudo-command CMAC with the digits of its message, none for the empty one. -/
def assembleCmac (mn key iv message : List Char) : Option (List Instr) :=
  if mn = mnCmac then
    match blockOfHex key, blockOfHex iv, bytesOfHex message with
    | some k, some v, some m => some (cmac k v m)
    | _, _, _ => none
  else none

/-- The commands of a line, none for a blank or comment line; no answer for a line that R79 and R81 do not give. -/
def assembleLine (line : List Char) : Option (List Instr) :=
  match lineWords line with
  | [] => some []
  | [mn] => assembleBare mn
  | [mn, x] => assembleUnary mn x
  | [mn, k, v] => assembleCmac mn k v []
  | [mn, k, v, m] => assembleCmac mn k v m
  | _ => none

/-- The text of a command (R79, R80). An ABSORB of more than 16 bytes has none: R79 writes at most 32 digits. -/
def disassemble (i : Instr) : Option (List Char) :=
  match i with
  | .nop => some mnNop
  | .loadkey key => some (mnLoadkey ++ ' ' :: hexOfBlock key)
  | .init iv => some (mnInit ++ ' ' :: hexOfBlock iv)
  | .absorb len data =>
    if len = 0#8 then some mnAbsorb
    else if len.toNat ≤ 16 then some (mnAbsorb ++ ' ' :: hexOfBytes (messageBytes len.toNat data))
    else none
  | .final => some mnFinal
  | .enc block => some (mnEnc ++ ' ' :: hexOfBlock block)
  | .rdkey => some mnRdkey
  | .rdk1 => some mnRdk1
  | .rdk2 => some mnRdk2
  | .clr => some mnClr

end Sys2Proof.Machine
end

