-- ==== Sys2Proof/Machine/Flags.lean ====
section
/-! DEFINITION. What is computed from the flags: the code of a fault (R161), the status word (R32), the phase (R34) and
the output ports (R64). -/

namespace Sys2Proof.Machine

/-- The three bits of `ERR` for each cause (R161). -/
def errBits (c : ErrCode) : BitVec 3 :=
  match c with
  | .none => 0#3
  | .illegalOpcode => 1#3
  | .noKey => 2#3
  | .sequence => 3#3
  | .length => 4#3

/-- FLT, `status[3]`: 1 when a fault is recorded (R32). -/
def faultFlag (s : State) : Bool := s.err != .none

/-- `BUFLEN` as a 5-bit number (R26, R32). -/
def bufLenBits (s : State) : BitVec 5 := BitVec.ofNat 5 s.bufLen.val

/-- The status word (R32): `000`, BUFLEN, `0`, ERR, FLT, DV, MA, KV from bit 15 down to bit 0. -/
def status (s : State) : BitVec 16 :=
  (0#3 ++ bufLenBits s ++ 0#1 ++ errBits s.err ++ BitVec.ofBool (faultFlag s) ++ BitVec.ofBool s.dv
    ++ BitVec.ofBool s.ma ++ BitVec.ofBool s.kv : BitVec (3 + 5 + 1 + 3 + 1 + 1 + 1 + 1))

/-- The phases of R34. -/
inductive Phase where
  | nokey
  | idle
  | active
  | fault
  deriving DecidableEq, Repr

/-- The phase, a function of `ERR`, `KV` and `MA` (R34). -/
def phase (s : State) : Phase :=
  if s.err ≠ .none then .fault
  else if s.kv = false then .nokey
  else if s.ma = false then .idle
  else .active

/-- The output ports (R64). -/
structure PortOutputs where
  cmdReady : Bool
  dout : Block
  status : BitVec 16
  deriving DecidableEq, Repr

/-- The output ports at the instants the model has, those at which `cmd_ready = 1` (R65, R66): `dout` shows `DOUT`, not
gated by `DV` (R37), and `status` the status word. -/
def outputs (s : State) : PortOutputs := { cmdReady := true, dout := s.dout, status := status s }

end Sys2Proof.Machine
end

