-- ==== Sys2Proof/Safety.lean ====
section
/-! DEFINITION. The terms in which claims about the core are made: the invariants of R35, R162 as one function of a
command and a state, the number of cipher evaluations (R196), sequences of commands (R60), and what a host cannot
observe (R186, `93_implementation_defined.md` U1). -/

namespace Sys2Proof.Machine

/-! ### The invariants of R35 -/

/-- (I1) to (I8) of R35, for the cipher of the configuration. -/
structure Inv (cfg : Config) (s : State) : Prop where
  /-- (I1) -/
  activeHasKey : s.ma = true → s.kv = true
  /-- (I2), of the five bits of `BUFLEN` -/
  bufLenAtMost16 : (bufLenBits s).toNat ≤ 16
  /-- (I3) -/
  bufZeroBeyond : ∀ i, s.bufLen.val ≤ i → i ≤ 15 → byte s.buf i = 0#8
  /-- (I4) -/
  subkeysOfKey : s.kv = true → s.k1 = dbl (cfg.encrypt s.key 0#128) ∧ s.k2 = dbl s.k1
  /-- (I5) -/
  inactiveEmpty : s.ma = false → s.bufLen = 0 ∧ s.buf = 0#128
  /-- (I6) -/
  noKeyZero : s.kv = false → s.key = 0#128 ∧ s.k1 = 0#128 ∧ s.k2 = 0#128
  /-- (I7) -/
  noDataZero : s.dv = false → s.dout = 0#128
  /-- (I8), of the three bits of `ERR` -/
  errAtMost4 : (errBits s.err).toNat ≤ 4

/-! ### R162 as one function -/

/-- What the checks of R162 decide. -/
inductive Verdict where
  | execute
  | ignore
  | fault (c : ErrCode)
  deriving DecidableEq, Repr

/-- Steps 1 and 2 of R162: the commands executed in every phase. -/
def alwaysExecutes (i : Instr) : Bool :=
  match i with
  | .nop => true
  | .loadkey _ => false
  | .init _ => false
  | .absorb _ _ => false
  | .final => false
  | .enc _ => false
  | .rdkey => false
  | .rdk1 => false
  | .rdk2 => false
  | .clr => true

/-- The commands that need a key (R162). -/
def needsKey (i : Instr) : Bool :=
  match i with
  | .nop => false
  | .loadkey _ => false
  | .init _ => true
  | .absorb _ _ => true
  | .final => true
  | .enc _ => true
  | .rdkey => true
  | .rdk1 => true
  | .rdk2 => true
  | .clr => false

/-- Step 6 of R162: ABSORB and FINAL are out of order with no message in progress, LOADKEY with one. -/
def outOfOrder (i : Instr) (s : State) : Bool :=
  match i with
  | .nop => false
  | .loadkey _ => s.ma
  | .init _ => false
  | .absorb _ _ => !s.ma
  | .final => !s.ma
  | .enc _ => false
  | .rdkey => false
  | .rdk1 => false
  | .rdk2 => false
  | .clr => false

/-- Step 7 of R162. -/
def overLong (i : Instr) : Bool :=
  match i with
  | .nop => false
  | .loadkey _ => false
  | .init _ => false
  | .absorb len _ => decide (16 < len.toNat)
  | .final => false
  | .enc _ => false
  | .rdkey => false
  | .rdk1 => false
  | .rdk2 => false
  | .clr => false

/-- The checks of R162 in their order, for a word whose opcode is not reserved. -/
def verdict (i : Instr) (s : State) : Verdict :=
  if alwaysExecutes i then .execute
  else if s.err ≠ .none then .ignore
  else if needsKey i && !s.kv then .fault .noKey
  else if outOfOrder i s then .fault .sequence
  else if overLong i then .fault .length
  else .execute

/-! ### The phase transition table (R152) -/

/-- The row of R152's table for the commands that need a key and no message. -/
def phaseAfterKeyed (p : Phase) : Phase :=
  match p with
  | .nokey => .fault
  | .idle => .idle
  | .active => .active
  | .fault => .fault

/-- The phase after a command, by the phase before it: the cells of R152's table, a named fault being FAULT. -/
def phaseAfter (i : Instr) (p : Phase) : Phase :=
  match i with
  | .nop => p
  | .loadkey _ =>
    match p with
    | .nokey => .idle
    | .idle => .idle
    | .active => .fault
    | .fault => .fault
  | .init _ =>
    match p with
    | .nokey => .fault
    | .idle => .active
    | .active => .active
    | .fault => .fault
  | .absorb len _ =>
    match p with
    | .nokey => .fault
    | .idle => .fault
    | .active => if len.toNat ≤ 16 then .active else .fault
    | .fault => .fault
  | .final =>
    match p with
    | .nokey => .fault
    | .idle => .fault
    | .active => .idle
    | .fault => .fault
  | .enc _ => phaseAfterKeyed p
  | .rdkey => phaseAfterKeyed p
  | .rdk1 => phaseAfterKeyed p
  | .rdk2 => phaseAfterKeyed p
  | .clr => .nokey

/-! ### The work of the core (R196) -/

/-- How many times a command evaluates `Encrypt` (R103, R134, R196): a faulting or ignored command never does. -/
def encryptEvaluations (i : Instr) (s : State) : Nat :=
  if verdict i s = .execute then
    match i with
    | .nop => 0
    | .loadkey _ => 1
    | .init _ => 0
    | .absorb len _ => if 16 < s.bufLen.val + len.toNat then 1 else 0
    | .final => 1
    | .enc _ => 1
    | .rdkey => 0
    | .rdk1 => 0
    | .rdk2 => 0
    | .clr => 0
  else 0

/-- The effect of a command with the cipher as an argument. `exec` is this for the hardware's cipher; claims compare
what a command does under two ciphers. -/
def commandEffect (cfg : Config) (i : Instr) (s : State) : State :=
  match i with
  | .nop => s
  | .loadkey key => loadkey cfg key s
  | .init iv => init iv s
  | .absorb len data => absorb cfg len data s
  | .final => final cfg s
  | .enc block => enc cfg block s
  | .rdkey => rdkey s
  | .rdk1 => rdk1 s
  | .rdk2 => rdk2 s
  | .clr => s.clear

/-! ### Sequences of commands -/

/-- The outcome of commands executed in order, each to completion (R60). -/
def execAll : List Instr → State → Host.Outcome State Fault Refusal
  | [], s => .next s
  | i :: rest, s =>
    match exec i s with
    | .next t => execAll rest t
    | .fault r => .fault r
    | .refused r => .refused r

/-- The cipher evaluations of commands executed in order (R196). -/
def sequenceEvaluations : List Instr → State → Nat
  | [], _ => 0
  | i :: rest, s =>
    encryptEvaluations i s +
      match exec i s with
      | .next t => sequenceEvaluations rest t
      | .fault _ => 0
      | .refused _ => 0

/-! ### What a host cannot observe -/

/-- The two states agree on everything but registers that no rule reads before it writes them: `KEY`, `K1` and `K2`
while `KV = 0`, `CV` and `BUF` while `MA = 0` (R186, R36). -/
structure SameForHost (s t : State) : Prop where
  kv : s.kv = t.kv
  ma : s.ma = t.ma
  dv : s.dv = t.dv
  err : s.err = t.err
  bufLen : s.bufLen = t.bufLen
  dout : s.dout = t.dout
  inputs : s.inputs = t.inputs
  keyMaterial : s.kv = true → s.key = t.key ∧ s.k1 = t.k1 ∧ s.k2 = t.k2
  message : s.ma = true → s.cv = t.cv ∧ s.buf = t.buf

end Sys2Proof.Machine
end

