-- ==== Sys2Proof/Certificates/Slice0/Obligations.lean ====
section
/-! DEFINITION. The statements for the provers. `R<n>` are the rules of `spec/`; each docstring says which rule or
section a statement formalises. A statement that the spec itself derives, or that rests on the AES rules it supplies from
general knowledge, says so. -/

open Sys2Proof Sys2Proof.Machine

/-! ### Reset and the ports -/

/-- R39: every item of R20 has its reset value in the state after reset, and in what CLR and a reset sample answer from
any state; and so have the ports and the phase. -/
def Obligations.ResetStateIsAllZero : Prop :=
  ∀ t : State, (t = State.reset ∨ ∃ s : State, exec .clr s = .next t ∨
      ∃ p rest, s.inputs = p :: rest ∧ p.rst = true ∧ step s = .next t) →
    t.key = 0#128 ∧ t.k1 = 0#128 ∧ t.k2 = 0#128 ∧ t.cv = 0#128 ∧ t.buf = 0#128 ∧ t.dout = 0#128 ∧
    t.bufLen = 0 ∧ t.kv = false ∧ t.ma = false ∧ t.dv = false ∧ t.err = .none ∧
    status t = 0x0000#16 ∧ (outputs t).dout = 0#128 ∧ phase t = .nokey

/-- R185: whatever the state and whatever command is presented with it, `rst` gives the reset state and nothing of the
command. The rest of the host's samples are the host's and stay. -/
def Obligations.ResetOverridesAnyCommand : Prop :=
  ∀ (s : State) (p : HostInput) (rest : List HostInput), s.inputs = p :: rest → p.rst = true →
    step s = .next
      { key := 0#128, k1 := 0#128, k2 := 0#128, cv := 0#128, buf := 0#128, bufLen := 0, dout := 0#128,
        kv := false, ma := false, dv := false, err := .none, inputs := rest }

/-- `20_memory.md` section 2 (the handshake): while nothing is accepted and `rst` is not asserted, no register changes.
That a host with no sample left presents nothing, and that no sample is waiting at reset, are the model's own choice (log
entry 2, DESIGN CHOICE). -/
def Obligations.NothingAcceptedChangesNothing : Prop :=
  State.reset.inputs = [] ∧
  (∀ s : State, s.inputs = [] → step s = .next s) ∧
  ∀ (s : State) (p : HostInput) (rest : List HostInput), s.inputs = p :: rest → p.rst = false → p.cmdValid = false →
    step s = .next { s with inputs := rest }

/-- `20_memory.md` sections 2 and 6: an accepted word that decodes to a command is executed on the registers as they
stand, and the sample is used up. -/
def Obligations.StepRunsDecodedCommand : Prop :=
  ∀ (s : State) (p : HostInput) (rest : List HostInput) (i : Instr),
    s.inputs = p :: rest → p.rst = false → p.cmdValid = true → decode p.cmd = .ok i →
    step s = exec i { s with inputs := rest }

/-- R76: every word with one of the 246 reserved opcodes raises ILLEGAL_OPCODE, whatever its other fields hold, unless
the core is in FAULT, where it is ignored. -/
def Obligations.ReservedOpcodeRaisesIllegalOpcode : Prop :=
  ∀ (s : State) (p : HostInput) (rest : List HostInput), s.inputs = p :: rest → p.rst = false → p.cmdValid = true →
    0x0A ≤ (cmdOp p.cmd).toNat →
    step s = .next (if s.err = .none then { s with err := .illegalOpcode, inputs := rest }
      else { s with inputs := rest })

/-- `70_reset_and_hazards.md` section 4: no command hangs; the machine always answers a next state. -/
def Obligations.EveryStepCompletes : Prop :=
  ∀ s : State, ∃ t, step s = .next t

/-! ### Encoding -/

/-- `30_encoding.md` sections 3 and 5: the canonical word of every canonical command, and its 18-byte frame at the front
of any byte stream, decode to the command. -/
def Obligations.DecodeOfEncodeIsIdentity : Prop :=
  ∀ (i : Instr) (rest : List Byte), i.wellFormed = true →
    decode (encode i) = .ok i ∧ decodeFrame (encodeFrame i ++ rest) = .ok (i, rest)

/-- `30_encoding.md` sections 3 and 5: what a word decodes to is a canonical command with the word's opcode, and
encoding it gives the canonical word of the same command. -/
def Obligations.DecodedCommandIsCanonical : Prop :=
  ∀ (w : CmdWord) (i : Instr), decode w = .ok i →
    i.wellFormed = true ∧ opcode i = cmdOp w ∧ cmdOp (encode i) = cmdOp w ∧ decode (encode i) = .ok i

/-- `30_encoding.md` section 4 (the total decoder, which the spec derives): a word is a command exactly if its opcode is
one of R74's ten, and every other word is rejected with its opcode. -/
def Obligations.DecoderRejectsExactlyReservedOpcodes : Prop :=
  ∀ w : CmdWord, ((∃ i, decode w = .ok i) ↔ (cmdOp w).toNat ≤ 9) ∧
    (∀ e, decode w = .error e → e = .illegalOpcode (cmdOp w))

/-- `30_encoding.md` section 3, the ignored fields: `len` matters to ABSORB only, `data` to LOADKEY, INIT, ABSORB and ENC
only, and to ABSORB only in its first `len` bytes, both as decoded and as executed. -/
def Obligations.IgnoredFieldsHaveNoEffect : Prop :=
  (∀ w w' : CmdWord, cmdOp w = cmdOp w' → cmdOp w ≠ 0x03#8 → cmdData w = cmdData w' → decode w = decode w') ∧
  (∀ w w' : CmdWord, cmdOp w = cmdOp w' → cmdOp w ≠ 0x01#8 → cmdOp w ≠ 0x02#8 → cmdOp w ≠ 0x03#8 →
    cmdOp w ≠ 0x05#8 → decode w = decode w') ∧
  (∀ w w' : CmdWord, cmdOp w = 0x03#8 → cmdOp w' = 0x03#8 → cmdLen w = cmdLen w' →
    (∀ i, i < 16 → i < (cmdLen w).toNat → byte (cmdData w) i = byte (cmdData w') i) → decode w = decode w') ∧
  (∀ (len : Byte) (d d' : Block) (s : State), (∀ i, i < 16 → i < len.toNat → byte d i = byte d' i) →
    exec (.absorb len d) s = exec (.absorb len d') s)

/-- R72: the frame of a word is its opcode, its length byte and the sixteen bytes of its data, eighteen in all; with the
rule's example. -/
def Obligations.FrameIsMostSignificantByteFirst : Prop :=
  (∀ w : CmdWord, frameOfWord w = cmdOp w :: cmdLen w :: messageBytes 16 (cmdData w) ∧
    (frameOfWord w).length = 18 ∧ wordOfFrame (frameOfWord w) = w) ∧
  encode (.loadkey 0x2b7e151628aed2a6abf7158809cf4f3c#128) = 0x01002b7e151628aed2a6abf7158809cf4f3c#144

/-- `95_test_vectors.md` section 5.1: a word of each family, written out from the encoding, decodes to its command. -/
def Obligations.SampleWordsDecode : Prop :=
  decode 0x00ffffffffffffffffffffffffffffffffff#144 = .ok .nop ∧
  decode 0x01002b7e151628aed2a6abf7158809cf4f3c#144 = .ok (.loadkey 0x2b7e151628aed2a6abf7158809cf4f3c#128) ∧
  decode 0x0304ae2d8a57ffffffffffffffffffffffff#144
    = .ok (.absorb 4#8 0xae2d8a57000000000000000000000000#128) ∧
  decode 0x0410aaaaaaaaaaaaaaaaaaaaaaaaaaaaaaaa#144 = .ok .final ∧
  decode 0x05003243f6a8885a308d313198a2e0370734#144 = .ok (.enc 0x3243f6a8885a308d313198a2e0370734#128) ∧
  decode 0x0a0000000000000000000000000000000000#144 = .error (.illegalOpcode 0x0a#8)

/-! ### The commands -/

/-- R150: every word with `op = 0x00` is NOP, and NOP changes nothing in any phase. -/
def Obligations.NopChangesNothing : Prop :=
  (∀ w : CmdWord, cmdOp w = 0x00#8 → decode w = .ok .nop) ∧ ∀ s : State, exec .nop s = .next s

/-- R151: every word with `op = 0x09` is CLR, and CLR, in any phase, writes every register and flag. -/
def Obligations.ClrWritesResetValues : Prop :=
  (∀ w : CmdWord, cmdOp w = 0x09#8 → decode w = .ok .clr) ∧
  ∀ s : State, exec .clr s = .next
    { key := 0#128, k1 := 0#128, k2 := 0#128, cv := 0#128, buf := 0#128, bufLen := 0, dout := 0#128,
      kv := false, ma := false, dv := false, err := .none, inputs := s.inputs }

/-- R113: LOADKEY, every word with `op = 0x01`: ignored in FAULT, SEQUENCE while a message is in progress, and otherwise
the three registers and `KV` are written and nothing else. -/
def Obligations.LoadkeyConstructsKeyMaterial : Prop :=
  (∀ w : CmdWord, cmdOp w = 0x01#8 → decode w = .ok (.loadkey (cmdData w))) ∧
  ∀ (k : Block) (s : State),
    (s.err ≠ .none → exec (.loadkey k) s = .next s) ∧
    (s.err = .none → s.ma = true → exec (.loadkey k) s = .next { s with err := .sequence }) ∧
    (s.err = .none → s.ma = false → exec (.loadkey k) s = .next
      { s with
        key := k
        k1 := dbl (aes128 k 0#128)
        k2 := dbl (dbl (aes128 k 0#128))
        kv := true })

/-- R132: INIT, every word with `op = 0x02`: ignored in FAULT, NO_KEY without a key, and otherwise, with a message in
progress or not, a message is begun. -/
def Obligations.InitBeginsMessage : Prop :=
  (∀ w : CmdWord, cmdOp w = 0x02#8 → decode w = .ok (.init (cmdData w))) ∧
  ∀ (iv : Block) (s : State),
    (s.err ≠ .none → exec (.init iv) s = .next s) ∧
    (s.err = .none → s.kv = false → exec (.init iv) s = .next { s with err := .noKey }) ∧
    (s.err = .none → s.kv = true → exec (.init iv) s = .next
      { s with cv := iv, buf := 0#128, bufLen := 0, ma := true })

/-- R133: one byte step, for any cipher: a full buffer is chained first, and the byte then goes to position `BUFLEN`;
afterwards `BUFLEN` is 1 to 16 and the bytes beyond it are zero again. -/
def Obligations.AbsorbByteChainsLate : Prop :=
  ∀ (cfg : Config) (s : State) (b : Byte),
    (s.bufLen = 16 → absorbByte cfg s b =
      { s with
        cv := cfg.encrypt s.key (s.cv ^^^ s.buf)
        buf := setByte 0#128 0 b
        bufLen := 1 }) ∧
    (∀ h : s.bufLen.val < 16, absorbByte cfg s b =
      { s with
        buf := setByte s.buf s.bufLen.val b
        bufLen := ⟨s.bufLen.val + 1, Nat.succ_lt_succ h⟩ }) ∧
    1 ≤ (absorbByte cfg s b).bufLen.val ∧
    ((∀ i, s.bufLen.val ≤ i → i ≤ 15 → byte s.buf i = 0#8) →
      ∀ i, (absorbByte cfg s b).bufLen.val ≤ i → i ≤ 15 → byte (absorbByte cfg s b).buf i = 0#8)

/-- R134: every word with `op = 0x03` is an ABSORB with its length byte and its first `len`
data bytes; the checks in their order; and otherwise the byte steps over the message bytes, in order. -/
def Obligations.AbsorbFoldsByteSteps : Prop :=
  (∀ w : CmdWord, cmdOp w = 0x03#8 → ∃ d, decode w = .ok (.absorb (cmdLen w) d) ∧
    ∀ i, i < 16 → i < (cmdLen w).toNat → byte d i = byte (cmdData w) i) ∧
  ∀ (len : Byte) (d : Block) (s : State),
    (s.err ≠ .none → exec (.absorb len d) s = .next s) ∧
    (s.err = .none → s.kv = false → exec (.absorb len d) s = .next { s with err := .noKey }) ∧
    (s.err = .none → s.kv = true → s.ma = false → exec (.absorb len d) s = .next { s with err := .sequence }) ∧
    (s.err = .none → s.kv = true → s.ma = true → 16 < len.toNat →
      exec (.absorb len d) s = .next { s with err := .length }) ∧
    (s.err = .none → s.kv = true → s.ma = true → len.toNat ≤ 16 →
      exec (.absorb len d) s =
        .next (((List.range len.toNat).map (byte d)).foldl (absorbByte Config.hardware) s))

/-- `42_cmac.md` section 2 (ABSORB, the corner cases the spec derives): what a legal ABSORB leaves, in closed form. With
the `BUFLEN` bytes of `BUF` and the bytes of the beat in one row, at most sixteen stay in `BUF`; of more than sixteen,
the first sixteen are chained once and the rest stays. Nothing else changes. -/
def Obligations.AbsorbClosedForm : Prop :=
  ∀ (len : Byte) (d : Block) (s : State), s.err = .none → s.kv = true → s.ma = true → len.toNat ≤ 16 →
    (∀ i, s.bufLen.val ≤ i → i ≤ 15 → byte s.buf i = 0#8) →
    ∃ t, exec (.absorb len d) s = .next t ∧
      (let row := messageBytes s.bufLen.val s.buf ++ messageBytes len.toNat d
       (row.length ≤ 16 → t.cv = s.cv ∧ t.buf = blockOfBytes row ∧ t.bufLen.val = row.length) ∧
       (16 < row.length → t.cv = aes128 s.key (s.cv ^^^ blockOfBytes (row.take 16)) ∧
         t.buf = blockOfBytes (row.drop 16) ∧ t.bufLen.val = row.length - 16)) ∧
      (0 < len.toNat → t.bufLen.val = (s.bufLen.val + len.toNat - 1) % 16 + 1) ∧
      t = { s with cv := t.cv, buf := t.buf, bufLen := t.bufLen }

/-- `42_cmac.md` section 2 (FINAL): every word with `op = 0x04` is FINAL; the checks in their order; and otherwise the
tag is delivered, the message is closed and nothing else changes. `93_implementation_defined.md` U1 lets no claim mention
`CV` after FINAL, so this one leaves it out. -/
def Obligations.FinalDeliversTag : Prop :=
  (∀ w : CmdWord, cmdOp w = 0x04#8 → decode w = .ok .final) ∧
  ∀ s : State,
    (s.err ≠ .none → exec .final s = .next s) ∧
    (s.err = .none → s.kv = false → exec .final s = .next { s with err := .noKey }) ∧
    (s.err = .none → s.kv = true → s.ma = false → exec .final s = .next { s with err := .sequence }) ∧
    (s.err = .none → s.kv = true → s.ma = true → ∃ t, exec .final s = .next t ∧
      t.dout = aes128 s.key (s.cv ^^^ (if s.bufLen.val = 16 then s.buf ^^^ s.k1
        else pad s.buf s.bufLen.val ^^^ s.k2)) ∧
      t = { s with dout := t.dout, dv := true, cv := t.cv, buf := 0#128, bufLen := 0, ma := false })

/-- R102: ENC, every word with `op = 0x05`: ignored in FAULT, NO_KEY without a key, and otherwise, with a message in
progress or not, `DOUT` and `DV` are written and nothing else. -/
def Obligations.EncEncryptsUnderKey : Prop :=
  (∀ w : CmdWord, cmdOp w = 0x05#8 → decode w = .ok (.enc (cmdData w))) ∧
  ∀ (b : Block) (s : State),
    (s.err ≠ .none → exec (.enc b) s = .next s) ∧
    (s.err = .none → s.kv = false → exec (.enc b) s = .next { s with err := .noKey }) ∧
    (s.err = .none → s.kv = true → exec (.enc b) s = .next { s with dout := aes128 s.key b, dv := true })

/-- R114, R115, R116: RDKEY, RDK1 and RDK2 deliver `KEY`, `K1` and `K2` and change nothing else. -/
def Obligations.KeyReadsDeliverTheirRegister : Prop :=
  (∀ w : CmdWord, (cmdOp w = 0x06#8 → decode w = .ok .rdkey) ∧ (cmdOp w = 0x07#8 → decode w = .ok .rdk1) ∧
    (cmdOp w = 0x08#8 → decode w = .ok .rdk2)) ∧
  ∀ s : State,
    (s.err ≠ .none → exec .rdkey s = .next s ∧ exec .rdk1 s = .next s ∧ exec .rdk2 s = .next s) ∧
    (s.err = .none → s.kv = false → exec .rdkey s = .next { s with err := .noKey } ∧
      exec .rdk1 s = .next { s with err := .noKey } ∧ exec .rdk2 s = .next { s with err := .noKey }) ∧
    (s.err = .none → s.kv = true → exec .rdkey s = .next { s with dout := s.key, dv := true } ∧
      exec .rdk1 s = .next { s with dout := s.k1, dv := true } ∧
      exec .rdk2 s = .next { s with dout := s.k2, dv := true })

/-! ### Faults -/

/-- R162: the checks in their order decide what a command does: it is ignored, it faults with exactly one code and no
other effect, or it executes, and then records no fault. A reserved opcode comes after the lock. -/
def Obligations.ChecksFollowPriority : Prop :=
  (∀ (i : Instr) (s : State),
    (verdict i s = .ignore → exec i s = .next s) ∧
    (∀ c, verdict i s = .fault c → exec i s = .next { s with err := c }) ∧
    (verdict i s = .execute → ∃ t, exec i s = .next t ∧ t.err = (if i = .clr then .none else s.err))) ∧
  (∀ (s : State) (w : CmdWord) (rest : List HostInput), s.inputs = present w :: rest → 0x0A ≤ (cmdOp w).toNat →
    (s.err ≠ .none → step s = .next { s with inputs := rest }) ∧
    (s.err = .none → step s = .next { s with err := .illegalOpcode, inputs := rest }))

/-- R163: a step that records a fault writes `ERR` and no other register; FLT and the ERR field show it; and a code once
recorded is not replaced by another. -/
def Obligations.FaultEntryWritesErrOnly : Prop :=
  ∀ s t : State, step s = .next t →
    (s.err = .none → t.err ≠ .none → t = { s with err := t.err, inputs := s.inputs.tail } ∧
      (status t).getLsbD 3 = true ∧ (status t).extractLsb' 4 3 = errBits t.err) ∧
    (s.err ≠ .none → t.err ≠ .none → t.err = s.err)

/-- R161 and R162: the codes; which fault each command raises, on what cause and under which earlier checks; that a
fault is all its command does; and that NOP, CLR and the lock come before every fault. -/
def Obligations.FaultCausesAndCodes : Prop :=
  (errBits .none = 0#3 ∧ errBits .illegalOpcode = 1#3 ∧ errBits .noKey = 2#3 ∧ errBits .sequence = 3#3 ∧
    errBits .length = 4#3) ∧
  (∀ (i : Instr) (s t : State), s.err = .none → exec i s = .next t →
    t.err ≠ .illegalOpcode ∧
    (t.err = .noKey ↔ s.kv = false ∧ ((∃ v, i = .init v) ∨ (∃ n d, i = .absorb n d) ∨ i = .final ∨
      (∃ b, i = .enc b) ∨ i = .rdkey ∨ i = .rdk1 ∨ i = .rdk2)) ∧
    (t.err = .sequence ↔ (s.ma = true ∧ ∃ k, i = .loadkey k) ∨
      (s.kv = true ∧ s.ma = false ∧ ((∃ n d, i = .absorb n d) ∨ i = .final))) ∧
    (t.err = .length ↔ s.kv = true ∧ s.ma = true ∧ ∃ n d, i = .absorb n d ∧ 16 < n.toNat) ∧
    (t.err ≠ .none → t = { s with err := t.err })) ∧
  (∀ (i : Instr) (s t : State), exec i s = .next t →
    (i = .nop → t = s) ∧ (i = .clr → t.err = .none) ∧ (s.err ≠ .none → i ≠ .clr → t = s)) ∧
  (∀ (s t : State) (w : CmdWord) (rest : List HostInput), s.inputs = present w :: rest → step s = .next t →
    (s.err = .none → (t.err = .illegalOpcode ↔ 0x0A ≤ (cmdOp w).toNat) ∧
      (t.err = .illegalOpcode → t = { s with err := .illegalOpcode, inputs := rest })) ∧
    (s.err ≠ .none → 0x0A ≤ (cmdOp w).toNat → t = { s with inputs := rest }))

/-- R164: in FAULT every accepted word, legal or reserved, but CLR's changes no register. -/
def Obligations.FaultLockIgnoresEveryWordButClr : Prop :=
  ∀ (s : State) (w : CmdWord) (rest : List HostInput), s.inputs = present w :: rest → s.err ≠ .none →
    cmdOp w ≠ 0x09#8 → step s = .next { s with inputs := rest }

/-- R165: CLR and reset leave FAULT, nothing else does, and both give the reset state. -/
def Obligations.FaultIsLeftOnlyByClrOrReset : Prop :=
  (∀ s t : State, step s = .next t → s.err ≠ .none → t.err = .none →
    t = { State.reset with inputs := s.inputs.tail } ∧
    ∃ p rest, s.inputs = p :: rest ∧ (p.rst = true ∨ (p.cmdValid = true ∧ cmdOp p.cmd = 0x09#8))) ∧
  (∀ (s : State) (p : HostInput) (rest : List HostInput), s.inputs = p :: rest →
    (p.rst = true ∨ (p.cmdValid = true ∧ cmdOp p.cmd = 0x09#8)) →
    step s = .next { State.reset with inputs := rest })

/-! ### What changes what -/

/-- R117: `KEY`, `K1` and `K2` are written by LOADKEY, all three together, and only while no message is in progress; by
the word of CLR and by reset, all three to zero; and by nothing else. -/
def Obligations.KeyMaterialIsImmutable : Prop :=
  (∀ (i : Instr) (s t : State), exec i s = .next t → i ≠ .clr → (∀ k, i ≠ .loadkey k) →
    t.key = s.key ∧ t.k1 = s.k1 ∧ t.k2 = s.k2 ∧ t.kv = s.kv) ∧
  (∀ s t : State, step s = .next t →
    (t.key = s.key ∧ t.k1 = s.k1 ∧ t.k2 = s.k2 ∧ t.kv = s.kv) ∨
    (t.key = 0#128 ∧ t.k1 = 0#128 ∧ t.k2 = 0#128 ∧ t.kv = false ∧
      ∃ p, s.inputs.head? = some p ∧ (p.rst = true ∨ (p.cmdValid = true ∧ cmdOp p.cmd = 0x09#8))) ∨
    (s.ma = false ∧ t.kv = true ∧ t.k1 = dbl (aes128 t.key 0#128) ∧ t.k2 = dbl t.k1 ∧
      ∃ p, s.inputs.head? = some p ∧ p.rst = false ∧ p.cmdValid = true ∧ cmdOp p.cmd = 0x01#8 ∧
        t.key = cmdData p.cmd))

/-- `10_state.md` section 6 (the table of writers, which the spec derives): a command that changes a register is one the
table gives a W for it; `ERR` is changed by faults and CLR only. -/
def Obligations.RegistersHaveTheirWritersOnly : Prop :=
  ∀ (i : Instr) (s t : State), exec i s = .next t →
    (t.cv ≠ s.cv ∨ t.buf ≠ s.buf ∨ t.bufLen ≠ s.bufLen →
      (∃ v, i = .init v) ∨ (∃ n d, i = .absorb n d) ∨ i = .final ∨ i = .clr) ∧
    (t.dout ≠ s.dout ∨ t.dv ≠ s.dv →
      i = .final ∨ (∃ b, i = .enc b) ∨ i = .rdkey ∨ i = .rdk1 ∨ i = .rdk2 ∨ i = .clr) ∧
    (t.key ≠ s.key ∨ t.k1 ≠ s.k1 ∨ t.k2 ≠ s.k2 ∨ t.kv ≠ s.kv → (∃ k, i = .loadkey k) ∨ i = .clr) ∧
    (t.ma ≠ s.ma → (∃ v, i = .init v) ∨ i = .final ∨ i = .clr) ∧
    (t.err ≠ s.err → i = .clr ∨ (s.err = .none ∧ t = { s with err := t.err })) ∧
    t.inputs = s.inputs

/-- `10_state.md` section 5 (the status word): its fields, and what the port shows. Its value after reset is the spec's own
inference from the reset values. -/
def Obligations.StatusWordFields : Prop :=
  (∀ s : State,
    (status s).getLsbD 0 = s.kv ∧ (status s).getLsbD 1 = s.ma ∧ (status s).getLsbD 2 = s.dv ∧
    ((status s).getLsbD 3 = true ↔ errBits s.err ≠ 0#3) ∧ (status s).extractLsb' 4 3 = errBits s.err ∧
    (status s).getLsbD 7 = false ∧ ((status s).extractLsb' 8 5).toNat = s.bufLen.val ∧
    (status s).extractLsb' 13 3 = 0#3 ∧ (errBits s.err).toNat ≤ 4 ∧ (outputs s).status = status s) ∧
  status State.reset = 0x0000#16

/-- R37: the port `dout` shows `DOUT`, whatever `DV` is, byte 0 in its top bits; until a result is delivered after reset
or CLR (`DV = 0`) it is zero, in every state a run from reset reaches and step by step; and a host that only reads the
ports changes neither them nor a register. -/
def Obligations.DoutPortShowsResultRegister : Prop :=
  (∀ s : State, (outputs s).dout = s.dout ∧ byte s.dout 0 = (outputs s).dout.extractLsb' 120 8) ∧
  (∀ (n : Nat) (driven : List HostInput) (t : State),
    Host.Core.run Sys2Proof.core n { State.reset with inputs := driven } = .next t → t.dv = false →
    (outputs t).dout = 0#128) ∧
  (∀ s t : State, (s.dv = false → s.dout = 0#128) → step s = .next t → t.dv = false → (outputs t).dout = 0#128) ∧
  (∀ (s t : State) (p : HostInput) (rest : List HostInput), s.inputs = p :: rest → p.rst = false →
    p.cmdValid = false → step s = .next t → outputs t = outputs s ∧ t = { s with inputs := rest })

/-- R34: the phase as a function of the flags. -/
def Obligations.PhaseFollowsFlags : Prop :=
  ∀ s : State,
    (phase s = .fault ↔ s.err ≠ .none) ∧
    (phase s = .nokey ↔ s.err = .none ∧ s.kv = false) ∧
    (phase s = .idle ↔ s.err = .none ∧ s.kv = true ∧ s.ma = false) ∧
    (phase s = .active ↔ s.err = .none ∧ s.kv = true ∧ s.ma = true)

/-- `43_system.md` section 2 (the phase table, which the spec derives): from a state with invariant (I1), every command
moves the core to the phase its cell names, and a reserved opcode moves it to FAULT. -/
def Obligations.PhaseTransitionTable : Prop :=
  (∀ (i : Instr) (s t : State), (s.ma = true → s.kv = true) → exec i s = .next t →
    phase t = phaseAfter i (phase s)) ∧
  (∀ (s t : State) (w : CmdWord) (rest : List HostInput), s.inputs = present w :: rest → 0x0A ≤ (cmdOp w).toNat →
    step s = .next t → phase t = .fault)

/-! ### The functions of the units -/

/-- R110: `dbl` on the 128-bit integer, with the rule's corner cases. -/
def Obligations.DblIsShiftWithConditionalRb : Prop :=
  (∀ x : Block, (dbl x).toNat =
    if x.toNat < 2 ^ 127 then (x.toNat * 2) % 2 ^ 128 else ((x.toNat * 2) % 2 ^ 128) ^^^ 0x87) ∧
  dbl 0#128 = 0#128 ∧ dbl 0x80000000000000000000000000000000#128 = 0x87#128 ∧
  dbl 0x40000000000000000000000000000000#128 = 0x80000000000000000000000000000000#128 ∧
  dbl 0xffffffffffffffffffffffffffffffff#128 = 0xffffffffffffffffffffffffffffff79#128 ∧ dbl 1#128 = 2#128

/-- `41_subkey.md` section 1 (`dbl` on bytes, which the spec derives): the carry of a byte goes into the byte before it,
and the XOR falls on the last byte. -/
def Obligations.DblOnBytesCarriesForward : Prop :=
  ∀ x : Block,
    (∀ i, i < 15 → byte (dbl x) i = (byte x i <<< 1) ||| (byte x (i + 1) >>> 7)) ∧
    byte (dbl x) 15 = (byte x 15 <<< 1) ^^^ (if byte x 0 >>> 7 = 1#8 then 0x87#8 else 0#8)

/-- R111: `New` for any cipher: the second XOR depends on the top bit of subkey1. -/
def Obligations.NewDerivesSubkeysFromL : Prop :=
  ∀ (cfg : Config) (k : Block),
    (newKeyMaterial cfg k).rawKey = k ∧
    (newKeyMaterial cfg k).subkey1 = (if (cfg.encrypt k 0#128).getLsbD 127 then
      (cfg.encrypt k 0#128 <<< 1) ^^^ 0x87#128 else cfg.encrypt k 0#128 <<< 1) ∧
    (newKeyMaterial cfg k).subkey2 = (if (newKeyMaterial cfg k).subkey1.getLsbD 127 then
      ((newKeyMaterial cfg k).subkey1 <<< 1) ^^^ 0x87#128 else (newKeyMaterial cfg k).subkey1 <<< 1)

/-- R126: the number of blocks and whether the last one is complete, by the length of the message. -/
def Obligations.PartitionIntoBlocks : Prop :=
  (blockCount 0 = 1 ∧ lastIsComplete 0 = false) ∧
  (∀ q, 1 ≤ q → blockCount (16 * q) = q ∧ lastIsComplete (16 * q) = true) ∧
  (∀ q r, 1 ≤ r → r ≤ 15 → blockCount (16 * q + r) = q + 1 ∧ lastIsComplete (16 * q + r) = false)

/-- R127: the last block, byte by byte: the last sixteen bytes under subkey1 if complete; otherwise the remaining bytes,
one `0x80` and zeros under subkey2. -/
def Obligations.LastBlockIsPaddedUnderItsSubkey : Prop :=
  (∀ (buf : Block) (t i : Nat), t ≤ 15 → i ≤ 15 →
    byte (pad buf t) i = if i < t then byte buf i else if i = t then 0x80#8 else 0x00#8) ∧
  (∀ (km : KeyMaterial) (m : List Byte) (i : Nat), i ≤ 15 → m ≠ [] → m.length % 16 = 0 →
    byte (lastBlock km m ^^^ km.subkey1) i = m.getD (m.length - 16 + i) 0#8) ∧
  (∀ (km : KeyMaterial) (m : List Byte) (i : Nat), i ≤ 15 → (m = [] ∨ m.length % 16 ≠ 0) →
    byte (lastBlock km m ^^^ km.subkey2) i =
      if i < m.length % 16 then m.getD (m.length - m.length % 16 + i) 0#8
      else if i = m.length % 16 then 0x80#8 else 0x00#8)

/-- R130: the empty message and the message of exactly sixteen bytes, for any cipher and KeyMaterial, and the boundary
property: for the non-empty multiples of sixteen the last block that is encrypted is the last sixteen bytes under
subkey1; for every other length it is the padded rest under subkey2; and the other subkey then has no part in the tag. -/
def Obligations.ComputeEdgeCases : Prop :=
  (∀ (cfg : Config) (km : KeyMaterial) (iv : Block),
    compute cfg km iv [] = cfg.encrypt km.rawKey (iv ^^^ 0x80000000000000000000000000000000#128 ^^^ km.subkey2)) ∧
  (∀ (cfg : Config) (km : KeyMaterial) (iv : Block) (m : List Byte), m.length = 16 →
    compute cfg km iv m = cfg.encrypt km.rawKey (iv ^^^ blockOfBytes m ^^^ km.subkey1)) ∧
  (∀ (cfg : Config) (km : KeyMaterial) (iv : Block) (m : List Byte),
    (m ≠ [] → m.length % 16 = 0 → compute cfg km iv m = cfg.encrypt km.rawKey
      (chainValue cfg km.rawKey iv m (m.length / 16 - 1) ^^^ blockOfBytes (m.drop (m.length - 16)) ^^^ km.subkey1)) ∧
    (m = [] ∨ m.length % 16 ≠ 0 → compute cfg km iv m = cfg.encrypt km.rawKey
      (chainValue cfg km.rawKey iv m (m.length / 16) ^^^
        pad (blockOfBytes (m.drop (m.length - m.length % 16))) (m.length % 16) ^^^ km.subkey2))) ∧
  (∀ (cfg : Config) (k k1 k2 x iv : Block) (m : List Byte),
    (m ≠ [] → m.length % 16 = 0 → compute cfg ⟨k, k1, k2⟩ iv m = compute cfg ⟨k, k1, x⟩ iv m) ∧
    (m = [] ∨ m.length % 16 ≠ 0 → compute cfg ⟨k, k1, k2⟩ iv m = compute cfg ⟨k, x, k2⟩ iv m))

/-- R125: `Compute` for any cipher, as the rule writes it: the blocks before the last are chained from the IV in order,
and the tag is the encryption of the chaining value under the adjusted last block. -/
def Obligations.ComputeIsTheReferenceFunction : Prop :=
  ∀ (cfg : Config) (km : KeyMaterial) (iv : Block) (m : List Byte),
    compute cfg km iv m =
      (let n := if m.length = 0 then 1 else (m.length + 15) / 16
       let complete := 0 < m.length ∧ m.length % 16 = 0
       let tail := m.drop (16 * (n - 1))
       let last := if complete then blockOfBytes tail ^^^ km.subkey1
         else pad (blockOfBytes tail) tail.length ^^^ km.subkey2
       let chained := (List.range (n - 1)).foldl
         (fun cv i => cfg.encrypt km.rawKey (cv ^^^ blockOfBytes ((m.drop (16 * i)).take 16))) iv
       cfg.encrypt km.rawKey (chained ^^^ last))

/-- `42_cmac.md` section 1 (chaining), for any cipher: one block alone is encrypted from the IV; a full block in front of
a non-empty rest is chained into the IV and leaves the last block as it is. -/
def Obligations.ComputeChainsAllButTheLastBlock : Prop :=
  (∀ (cfg : Config) (km : KeyMaterial) (iv : Block) (m : List Byte), m.length ≤ 16 →
    compute cfg km iv m = cfg.encrypt km.rawKey (iv ^^^ lastBlock km m)) ∧
  (∀ (cfg : Config) (km : KeyMaterial) (iv : Block) (b rest : List Byte), b.length = 16 → rest ≠ [] →
    compute cfg km iv (b ++ rest) = compute cfg km (cfg.encrypt km.rawKey (iv ^^^ blockOfBytes b)) rest ∧
    lastBlock km (b ++ rest) = lastBlock km rest)

/-! ### The cipher (the AES rules are the spec's from general knowledge) -/

/-- `40_blockcipher.md` section 3 (the S-box): the table is a bijection and the value of the formula the spec gives as
its check, with `b` the inverse of the byte or zero. -/
def Obligations.SboxIsInverseThenAffine : Prop :=
  Function.Bijective sbox ∧
  ∀ a : Byte, ∃ b : Byte, (a = 0#8 → b = 0#8) ∧ (a ≠ 0#8 → gfMul a b = 1#8) ∧
    sbox a = b ^^^ b.rotateLeft 1 ^^^ b.rotateLeft 2 ^^^ b.rotateLeft 3 ^^^ b.rotateLeft 4 ^^^ 0x63#8

/-- `40_blockcipher.md` section 3 (the key schedule): the 44 words obey the recurrence, with the round constants of
the table. -/
def Obligations.KeyScheduleRecurrence : Prop :=
  (∀ (key : Block) (i : Nat), i ≤ 3 →
    keyWord key i = byte key (4 * i) ++ byte key (4 * i + 1) ++ byte key (4 * i + 2) ++ byte key (4 * i + 3)) ∧
  (∀ (key : Block) (i : Nat), 4 ≤ i → i ≤ 43 → i % 4 ≠ 0 →
    keyWord key i = keyWord key (i - 4) ^^^ keyWord key (i - 1)) ∧
  (∀ (key : Block) (i : Nat), 4 ≤ i → i ≤ 43 → i % 4 = 0 →
    keyWord key i = keyWord key (i - 4) ^^^ (subWord (rotWord (keyWord key (i - 1))) ^^^
      ([0x01#8, 0x02#8, 0x04#8, 0x08#8, 0x10#8, 0x20#8, 0x40#8, 0x80#8, 0x1b#8, 0x36#8].getD (i / 4 - 1) 0#8
        ++ 0#24)))

/-- `40_blockcipher.md` section 4 (the cipher is a permutation): for every key, AES-128 is a bijection on Blocks. -/
def Obligations.AesIsPermutation : Prop :=
  ∀ key : Block, Function.Bijective (aes128 key)

/-- `40_blockcipher.md` section 1 (uses of the cipher), for any two ciphers: the commands evaluate the cipher under the
raw key only, so ciphers that agree there are not told apart; `K1` and `K2` are never cipher keys. -/
def Obligations.CipherIsUsedUnderRawKeyOnly : Prop :=
  ∀ (cfg cfg' : Config) (s : State),
    ((∀ b, cfg.encrypt s.key b = cfg'.encrypt s.key b) →
      (∀ len d, absorb cfg len d s = absorb cfg' len d s) ∧ final cfg s = final cfg' s ∧
      (∀ b, enc cfg b s = enc cfg' b s)) ∧
    (∀ k, cfg.encrypt k 0#128 = cfg'.encrypt k 0#128 → loadkey cfg k s = loadkey cfg' k s)

/-- `42_cmac.md` section 2 (ABSORB's corner cases, which the spec derives), for any two ciphers: an ABSORB evaluates the
cipher at no more than one Block, and at none if the beat does not overflow the buffer. -/
def Obligations.AbsorbEvaluatesCipherAtMostOnce : Prop :=
  ∀ (len : Byte) (d : Block) (s : State),
    (s.bufLen.val + len.toNat ≤ 16 → ∀ cfg cfg', absorb cfg len d s = absorb cfg' len d s) ∧
    ∃ x : Block, ∀ cfg cfg', cfg.encrypt s.key x = cfg'.encrypt s.key x →
      absorb cfg len d s = absorb cfg' len d s

/-! ### Messages -/

/-- `42_cmac.md` section 3 (the argument of the agreement, which the spec derives), for any cipher: the registers after
INIT and any bytes. -/
def Obligations.RegistersAfterAbsorbing : Prop :=
  ∀ (cfg : Config) (s : State) (iv : Block) (m : List Byte),
    absorbBytes cfg (beginMessage iv s) m =
      { s with
        cv := chainValue cfg s.key iv m ((m.length - 1) / 16)
        buf := blockOfBytes (m.drop (16 * ((m.length - 1) / 16)))
        bufLen := Fin.ofNat 17 (if m = [] then 0 else (m.length - 1) % 16 + 1)
        ma := true }

/-- `42_cmac.md` section 3 (beat independence, which the spec derives): the state after beats of at most sixteen bytes is
that of the byte steps over their concatenation, so it does not depend on how they are cut. -/
def Obligations.BeatsDependOnTheirConcatenation : Prop :=
  ∀ (beats : List (List Byte)) (s : State), s.err = .none → s.kv = true → s.ma = true →
    (∀ d ∈ beats, d.length ≤ 16) →
    execAll (beats.map absorbBeat) s = .next (absorbBytes Config.hardware s beats.flatten)

/-- `42_cmac.md` section 3 (the agreement of the commands with the reference function, which the spec derives), for every
cipher, key, IV and message, and every way of cutting the message into beats. -/
def Obligations.CommandsAgreeWithComputeForEveryCipher : Prop :=
  ∀ (cfg : Config) (k iv : Block) (beats : List (List Byte)) (s : State), s.err = .none → s.ma = false →
    (∀ d ∈ beats, d.length ≤ 16) →
    ∃ t, t = final cfg ((beats.foldl
        (fun u d => absorb cfg (BitVec.ofNat 8 d.length) (blockOfBytes d) u) (init iv (loadkey cfg k s)))) ∧
      t.dout = compute cfg (newKeyMaterial cfg k) iv beats.flatten ∧ t.dv = true ∧ phase t = .idle ∧
      t.key = k ∧ t.k1 = (newKeyMaterial cfg k).subkey1 ∧ t.k2 = (newKeyMaterial cfg k).subkey2 ∧
      t.inputs = s.inputs

/-- The same at the ports: from any NOKEY or IDLE state in which the host presents the words of LOADKEY, INIT, the ABSORB
beats and FINAL, the machine's own run takes one step a word, raises no fault and shows the reference tag on `dout`. -/
def Obligations.PortRunDeliversReferenceTag : Prop :=
  ∀ (k iv : Block) (beats : List (List Byte)) (rest : List HostInput) (s : State), s.err = .none → s.ma = false →
    (∀ d ∈ beats, d.length ≤ 16) →
    s.inputs = ([Instr.loadkey k, .init iv] ++ beats.map absorbBeat ++ [Instr.final]).map (fun i => present (encode i))
      ++ rest →
    ∃ t : State, Host.Core.run Sys2Proof.core (beats.length + 3) s = .next t ∧
      (outputs t).dout = compute Config.hardware (newKeyMaterial Config.hardware k) iv beats.flatten ∧
      status t = 0x0005#16 ∧ phase t = .idle ∧ t.key = k ∧ t.inputs = rest

/-- `30_encoding.md` section 5 (the pseudo-commands): CMAC expands to LOADKEY, INIT, full beats and one of the rest if
there is a rest, and FINAL, and leaves the reference tag from any NOKEY or IDLE state, by the agreement the spec derives;
NEWKEY leaves, from any state, what CLR and then LOADKEY leave (`43_system.md` section 1, `41_subkey.md` section 3). -/
def Obligations.CmacPseudoCommandComputesTag : Prop :=
  (∀ (k iv : Block) (m : List Byte), ∃ beats : List (List Byte),
    cmac k iv m = [.loadkey k, .init iv] ++ beats.map absorbBeat ++ [.final] ∧ beats.flatten = m ∧
    (∀ d ∈ beats, 1 ≤ d.length ∧ d.length ≤ 16) ∧ (∀ d ∈ beats.dropLast, d.length = 16)) ∧
  (∀ (k iv : Block) (m : List Byte) (s : State), s.err = .none → s.ma = false →
    ∃ t, execAll (cmac k iv m) s = .next t ∧ t.dv = true ∧ phase t = .idle ∧
      t.dout = compute Config.hardware (newKeyMaterial Config.hardware k) iv m) ∧
  (∀ (k : Block) (s : State), ∃ t, execAll (newkey k) s = .next t ∧ phase t = .idle ∧ t.key = k ∧
    t.k1 = dbl (aes128 k 0#128) ∧ t.k2 = dbl t.k1 ∧ t.dout = 0#128 ∧ t.dv = false)

/-- `70_reset_and_hazards.md` section 4 (the work, which the spec derives): by the spec's count a message of any cut costs
one evaluation a block, and LOADKEY one more. `encryptEvaluations` is that count restated (log entry 14, DEDUCED);
`EvaluationCountIsDependenceOnCipher` compares it with `exec`. -/
def Obligations.MessageCostsOneEvaluationPerBlock : Prop :=
  ∀ (k iv : Block) (beats : List (List Byte)) (s : State), s.err = .none → s.ma = false →
    (∀ d ∈ beats, d.length ≤ 16) →
    sequenceEvaluations ([.loadkey k, .init iv] ++ beats.map absorbBeat ++ [Instr.final]) s
      = 1 + blockCount beats.flatten.length

/-- `70_reset_and_hazards.md` section 4 (the work, which the spec derives), with log entry 14 (DEDUCED): the spec's count
for a command is the number of arguments of the cipher its effect depends on. `commandEffect` is `exec` with the cipher
as an argument; the effect depends on the cipher at one key and Block at most, and on no cipher exactly if the count
is 0. -/
def Obligations.EvaluationCountIsDependenceOnCipher : Prop :=
  ∀ (i : Instr) (s : State),
    exec i s = .next (commandEffect Config.hardware i s) ∧
    encryptEvaluations i s ≤ 1 ∧
    (encryptEvaluations i s = 0 ↔ ∀ cfg cfg', commandEffect cfg i s = commandEffect cfg' i s) ∧
    ∃ k x : Block, ∀ cfg cfg', cfg.encrypt k x = cfg'.encrypt k x → commandEffect cfg i s = commandEffect cfg' i s

/-! ### The whole machine -/

/-- R60: commands accepted one after another are executed in that order, each on the registers the one before it left. -/
def Obligations.RunExecutesCommandsInOrder : Prop :=
  ∀ (commands : List Instr) (rest : List HostInput) (s : State), (∀ i ∈ commands, i.wellFormed = true) →
    s.inputs = commands.map (fun i => present (encode i)) ++ rest →
    Host.Core.run Sys2Proof.core commands.length s = execAll commands { s with inputs := rest }

/-- `10_state.md` section 7 (the invariants, which the spec derives): they hold at reset. -/
def Obligations.InvariantsHoldAtReset : Prop :=
  Inv Config.hardware State.reset

/-- `10_state.md` section 7 (the invariants, which the spec derives): every step keeps all eight, whatever the host
drives. -/
def Obligations.EveryStepKeepsInvariants : Prop :=
  ∀ s t : State, Inv Config.hardware s → step s = .next t → Inv Config.hardware t

/-- `10_state.md` section 7 (the invariants, which the spec derives): they hold in every state reached from reset,
whatever sequence of words and resets the host drives. -/
def Obligations.InvariantsHoldOfEveryReachableState : Prop :=
  ∀ (n : Nat) (driven : List HostInput) (t : State),
    Host.Core.run Sys2Proof.core n { State.reset with inputs := driven } = .next t → Inv Config.hardware t

/-- `70_reset_and_hazards.md` section 1 and `10_state.md` section 8 (which the spec derives): registers whose flag is
clear are dead. Two states that differ only in `KEY`, `K1`, `K2` while `KV = 0` and in `CV`, `BUF` while `MA = 0` show
the same on the ports, and every step keeps them so: no host can observe the chaining value after FINAL, or the content
of a key register before a key is loaded. -/
def Obligations.DeadRegistersAreUnobservable : Prop :=
  ∀ s t s' t' : State, SameForHost s t → step s = .next s' → step t = .next t' →
    SameForHost s' t' ∧ outputs s' = outputs t'
end

