-- ==== Sys2Proof/Laws/Bytes.lean ====
section
/-! SUPPORT. A Block is its sixteen bytes: reading a byte of a Block built from bytes, and equality of Blocks byte by
byte. -/

namespace Sys2Proof.Machine

/-- Bytes packed at the back of a list of bytes end up below the ones before them. -/
theorem packBytes_append_singleton (l : List Byte) (b : Byte) :
    packBytes (l ++ [b]) = (packBytes l <<< 8) ||| b.setWidth 128 := by
  simp [packBytes]

theorem byteBelow_shift_or (v : Block) (b : Byte) (k : Nat) (h : 8 * (k + 1) < 128) :
    ((v <<< 8) ||| b.setWidth 128).extractLsb' (8 * (k + 1)) 8 = v.extractLsb' (8 * k) 8 := by
  apply BitVec.eq_of_getLsbD_eq
  intro j hj
  have h1 : 8 * (k + 1) + j < 128 := by omega
  have h2 : ¬ 8 * (k + 1) + j < 8 := by omega
  have h3 : 8 * (k + 1) + j - 8 = 8 * k + j := by omega
  have h4 : b.getLsbD (8 * (k + 1) + j) = false := BitVec.getLsbD_of_ge _ _ (by omega)
  simp only [BitVec.getLsbD_extractLsb', BitVec.getLsbD_or, BitVec.getLsbD_shiftLeft, BitVec.getLsbD_setWidth, hj, h1, h2,
    h3, h4, decide_true, decide_false, Bool.true_and, Bool.not_false, Bool.or_false]

theorem lowByte_shift_or (v : Block) (b : Byte) : ((v <<< 8) ||| b.setWidth 128).extractLsb' 0 8 = b := by
  apply BitVec.eq_of_getLsbD_eq
  intro j hj
  have h1 : j < 128 := by omega
  simp [hj, h1]

/-- The byte `k` places above the end of a packed list of at most sixteen bytes. -/
theorem packBytes_byteFromEnd (l : List Byte) : ∀ k, k < l.length → l.length ≤ 16 →
    (packBytes l).extractLsb' (8 * k) 8 = l.getD (l.length - 1 - k) 0#8 := by
  induction l using List.reverseRecOn with
  | nil => intro k hk; simp at hk
  | append_singleton l b ih =>
    intro k hk hl
    simp only [List.length_append, List.length_cons, List.length_nil] at hk hl
    rw [packBytes_append_singleton]
    cases k with
    | zero => simp [lowByte_shift_or]
    | succ k =>
      rw [byteBelow_shift_or _ _ _ (by omega), ih k (by omega) (by omega)]
      have : l.length + 1 - 1 - (k + 1) = l.length - 1 - k := by omega
      simp only [List.length_append, List.length_cons, List.length_nil, Nat.zero_add, this, List.getD_eq_getElem?_getD]
      rw [List.getElem?_append_left (by omega)]

/-- Byte `i` of the Block built from `f` is `f i`. -/
theorem byte_blockOfFn (f : Nat → Byte) (i : Nat) (h : i < 16) : byte (blockOfFn f) i = f i := by
  have h1 : 120 - 8 * i = 8 * (15 - i) := by omega
  have h2 : 15 - (15 - i) = i := by omega
  have hl : ((List.range 16).map f).length = 16 := by simp
  rw [byte, blockOfFn, h1, packBytes_byteFromEnd _ _ (by omega) (by omega), hl]
  simp [List.getD_eq_getElem?_getD, h2, h]

/-- Two Blocks with the same sixteen bytes are equal. -/
theorem block_ext {v w : Block} (h : ∀ i, i < 16 → byte v i = byte w i) : v = w := by
  apply BitVec.eq_of_getLsbD_eq
  intro j hj
  have hb := congrArg (fun b : Byte => b.getLsbD (j % 8)) (h (15 - j / 8) (by omega))
  have h1 : 120 - 8 * (15 - j / 8) + j % 8 = j := by omega
  have h2 : j % 8 < 8 := Nat.mod_lt _ (by decide)
  simpa [byte, BitVec.getLsbD_extractLsb', h1, h2] using hb

theorem blockOfFn_congr {f g : Nat → Byte} (h : ∀ i, i < 16 → f i = g i) : blockOfFn f = blockOfFn g :=
  block_ext fun i hi => by rw [byte_blockOfFn f i hi, byte_blockOfFn g i hi, h i hi]

@[simp] theorem blockOfFn_byte (v : Block) : blockOfFn (byte v) = v :=
  block_ext fun i hi => byte_blockOfFn _ i hi

theorem byte_setByte (v : Block) (i j : Nat) (b : Byte) (h : j < 16) :
    byte (setByte v i b) j = if j = i then b else byte v j := byte_blockOfFn _ j h

theorem byte_pad (buf : Block) (t i : Nat) (h : i < 16) :
    byte (pad buf t) i = if i < t then byte buf i else if i = t then 0x80#8 else 0#8 := byte_blockOfFn _ i h

theorem byte_blockOfBytes (bytes : List Byte) (i : Nat) (h : i < 16) :
    byte (blockOfBytes bytes) i = bytes.getD i 0#8 := byte_blockOfFn _ i h

@[simp] theorem byte_zero (i : Nat) : byte 0#128 i = 0#8 := by simp [byte]

theorem byte_xor (v w : Block) (i : Nat) : byte (v ^^^ w) i = byte v i ^^^ byte w i := by
  apply BitVec.eq_of_getLsbD_eq
  intro j hj
  simp [byte, hj]

@[simp] theorem blockOfBytes_nil : blockOfBytes [] = 0#128 :=
  block_ext fun i hi => by rw [byte_blockOfBytes _ _ hi]; simp

@[simp] theorem length_messageBytes (n : Nat) (data : Block) : (messageBytes n data).length = n := by
  simp [messageBytes]

/-- The message bytes of a beat made from a list of bytes are the list. -/
theorem messageBytes_blockOfBytes (bytes : List Byte) (h : bytes.length ≤ 16) :
    messageBytes bytes.length (blockOfBytes bytes) = bytes := by
  apply List.ext_getElem
  · simp
  · intro i h1 h2
    simp only [messageBytes, List.getElem_map, List.getElem_range]
    rw [byte_blockOfBytes _ _ (by omega)]
    simp [List.getD_eq_getElem?_getD, h2]

end Sys2Proof.Machine
end

