-- ==== Sys2Proof/Laws/Decode.lean ====
section
/-! SUPPORT. The fields of a command word built from its fields, and the ignored bits of an ABSORB. -/

namespace Sys2Proof

/-- The bits of a command word built from its fields. -/
theorem getLsbD_mkWord (op len : Byte) (data : Block) (j : Nat) :
    (mkWord op len data).getLsbD j =
      if j < 128 then data.getLsbD j else if j - 128 < 8 then len.getLsbD (j - 128) else op.getLsbD (j - 128 - 8) := by
  by_cases h : j < 128 <;> by_cases h' : j - 128 < 8 <;>
    simp only [mkWord, BitVec.getLsbD_append, h, h', if_true, if_false]

@[simp] theorem cmdOp_mkWord (op len : Byte) (data : Block) : cmdOp (mkWord op len data) = op := by
  apply BitVec.eq_of_getLsbD_eq
  intro j hj
  have h1 : ¬ 136 + j < 128 := by omega
  have h2 : ¬ 136 + j - 128 < 8 := by omega
  have h3 : 136 + j - 128 - 8 = j := by omega
  simp only [cmdOp, BitVec.getLsbD_extractLsb', getLsbD_mkWord, h1, h2, h3, hj, if_false, decide_true, Bool.true_and]

@[simp] theorem cmdLen_mkWord (op len : Byte) (data : Block) : cmdLen (mkWord op len data) = len := by
  apply BitVec.eq_of_getLsbD_eq
  intro j hj
  have h1 : ¬ 128 + j < 128 := by omega
  have h2 : 128 + j - 128 = j := by omega
  simp only [cmdLen, BitVec.getLsbD_extractLsb', getLsbD_mkWord, h1, h2, hj, if_false, if_true, decide_true,
    Bool.true_and]

@[simp] theorem cmdData_mkWord (op len : Byte) (data : Block) : cmdData (mkWord op len data) = data := by
  apply BitVec.eq_of_getLsbD_eq
  intro j hj
  simp only [cmdData, BitVec.getLsbD_extractLsb', getLsbD_mkWord, Nat.zero_add, hj, if_true, decide_true,
    Bool.true_and]

/-- The three fields cover the word (R71). -/
theorem mkWord_fields (w : CmdWord) : mkWord (cmdOp w) (cmdLen w) (cmdData w) = w := by
  apply BitVec.eq_of_getLsbD_eq
  intro j hj
  simp only [mkWord, cmdOp, cmdLen, cmdData, BitVec.getLsbD_append, BitVec.getLsbD_extractLsb']
  by_cases h1 : j < 128
  · simp [h1]
  · by_cases h2 : j - 128 < 8
    · have : 128 + (j - 128) = j := by omega
      simp [h1, h2, this]
    · have h3 : j - 128 - 8 < 8 := by omega
      have h4 : 136 + (j - 128 - 8) = j := by omega
      simp [h1, h2, h3, h4]

/-- A canonical ABSORB's data keeps all its bits. -/
theorem keepBytes_of_canonical {len : Byte} {data : Block} (h : absorbDataCanonical len data = true) :
    keepBytes len data = data := by
  have h0 : data <<< (8 * len.toNat) = 0#128 := by simpa [absorbDataCanonical] using h
  apply BitVec.eq_of_getLsbD_eq
  intro j hj
  simp only [keepBytes, BitVec.getLsbD_shiftLeft, BitVec.getLsbD_ushiftRight]
  by_cases hlt : j < 128 - 8 * len.toNat
  · have hb := congrArg (fun v : Block => v.getLsbD (8 * len.toNat + j)) h0
    have h1 : 8 * len.toNat + j < 128 := by omega
    have h2 : data.getLsbD j = false := by
      simpa only [BitVec.getLsbD_shiftLeft, h1, decide_true, Bool.true_and, Nat.not_lt.mpr (Nat.le_add_right _ _),
        decide_false, Bool.not_false, Nat.add_sub_cancel_left, BitVec.getLsbD_zero] using hb
    simp [hlt, h2]
  · have h2 : 128 - 8 * len.toNat + (j - (128 - 8 * len.toNat)) = j := by omega
    simp [hlt, hj, h2]

/-- What the decoder makes of an ABSORB's data is canonical. -/
theorem keepBytes_canonical (len : Byte) (data : Block) :
    absorbDataCanonical len (keepBytes len data) = true := by
  simp only [absorbDataCanonical, beq_iff_eq]
  apply BitVec.eq_of_getLsbD_eq
  intro j hj
  by_cases h : j < 8 * len.toNat
  · simp [BitVec.getLsbD_shiftLeft, h]
  · have h2 : j - 8 * len.toNat < 128 - 8 * len.toNat := by omega
    simp [keepBytes, BitVec.getLsbD_shiftLeft, h2]

end Sys2Proof
end

