-- ==== Sys2Proof/Laws/State.lean ====
section
/-! SUPPORT. What every register holds after each shared operation: one lemma per operation and register, so that no
proof unfolds a record update. -/

namespace Sys2Proof.Machine

@[simp] theorem reset_key : State.reset.key = 0#128 := rfl
@[simp] theorem reset_k1 : State.reset.k1 = 0#128 := rfl
@[simp] theorem reset_k2 : State.reset.k2 = 0#128 := rfl
@[simp] theorem reset_cv : State.reset.cv = 0#128 := rfl
@[simp] theorem reset_buf : State.reset.buf = 0#128 := rfl
@[simp] theorem reset_bufLen : State.reset.bufLen = 0 := rfl
@[simp] theorem reset_dout : State.reset.dout = 0#128 := rfl
@[simp] theorem reset_kv : State.reset.kv = false := rfl
@[simp] theorem reset_ma : State.reset.ma = false := rfl
@[simp] theorem reset_dv : State.reset.dv = false := rfl
@[simp] theorem reset_err : State.reset.err = .none := rfl
@[simp] theorem reset_inputs : State.reset.inputs = [] := rfl

@[simp] theorem raise_key (s : State) (c : ErrCode) : (s.raise c).key = s.key := rfl
@[simp] theorem raise_k1 (s : State) (c : ErrCode) : (s.raise c).k1 = s.k1 := rfl
@[simp] theorem raise_k2 (s : State) (c : ErrCode) : (s.raise c).k2 = s.k2 := rfl
@[simp] theorem raise_cv (s : State) (c : ErrCode) : (s.raise c).cv = s.cv := rfl
@[simp] theorem raise_buf (s : State) (c : ErrCode) : (s.raise c).buf = s.buf := rfl
@[simp] theorem raise_bufLen (s : State) (c : ErrCode) : (s.raise c).bufLen = s.bufLen := rfl
@[simp] theorem raise_dout (s : State) (c : ErrCode) : (s.raise c).dout = s.dout := rfl
@[simp] theorem raise_kv (s : State) (c : ErrCode) : (s.raise c).kv = s.kv := rfl
@[simp] theorem raise_ma (s : State) (c : ErrCode) : (s.raise c).ma = s.ma := rfl
@[simp] theorem raise_dv (s : State) (c : ErrCode) : (s.raise c).dv = s.dv := rfl
@[simp] theorem raise_err (s : State) (c : ErrCode) : (s.raise c).err = c := rfl
@[simp] theorem raise_inputs (s : State) (c : ErrCode) : (s.raise c).inputs = s.inputs := rfl

@[simp] theorem clear_key (s : State) : s.clear.key = 0#128 := rfl
@[simp] theorem clear_k1 (s : State) : s.clear.k1 = 0#128 := rfl
@[simp] theorem clear_k2 (s : State) : s.clear.k2 = 0#128 := rfl
@[simp] theorem clear_cv (s : State) : s.clear.cv = 0#128 := rfl
@[simp] theorem clear_buf (s : State) : s.clear.buf = 0#128 := rfl
@[simp] theorem clear_bufLen (s : State) : s.clear.bufLen = 0 := rfl
@[simp] theorem clear_dout (s : State) : s.clear.dout = 0#128 := rfl
@[simp] theorem clear_kv (s : State) : s.clear.kv = false := rfl
@[simp] theorem clear_ma (s : State) : s.clear.ma = false := rfl
@[simp] theorem clear_dv (s : State) : s.clear.dv = false := rfl
@[simp] theorem clear_err (s : State) : s.clear.err = .none := rfl
@[simp] theorem clear_inputs (s : State) : s.clear.inputs = s.inputs := rfl

@[simp] theorem storeKey_key (km : KeyMaterial) (s : State) : (storeKey km s).key = km.rawKey := rfl
@[simp] theorem storeKey_k1 (km : KeyMaterial) (s : State) : (storeKey km s).k1 = km.subkey1 := rfl
@[simp] theorem storeKey_k2 (km : KeyMaterial) (s : State) : (storeKey km s).k2 = km.subkey2 := rfl
@[simp] theorem storeKey_cv (km : KeyMaterial) (s : State) : (storeKey km s).cv = s.cv := rfl
@[simp] theorem storeKey_buf (km : KeyMaterial) (s : State) : (storeKey km s).buf = s.buf := rfl
@[simp] theorem storeKey_bufLen (km : KeyMaterial) (s : State) : (storeKey km s).bufLen = s.bufLen := rfl
@[simp] theorem storeKey_dout (km : KeyMaterial) (s : State) : (storeKey km s).dout = s.dout := rfl
@[simp] theorem storeKey_kv (km : KeyMaterial) (s : State) : (storeKey km s).kv = true := rfl
@[simp] theorem storeKey_ma (km : KeyMaterial) (s : State) : (storeKey km s).ma = s.ma := rfl
@[simp] theorem storeKey_dv (km : KeyMaterial) (s : State) : (storeKey km s).dv = s.dv := rfl
@[simp] theorem storeKey_err (km : KeyMaterial) (s : State) : (storeKey km s).err = s.err := rfl
@[simp] theorem storeKey_inputs (km : KeyMaterial) (s : State) : (storeKey km s).inputs = s.inputs := rfl

@[simp] theorem deliver_key (v : Block) (s : State) : (deliver v s).key = s.key := rfl
@[simp] theorem deliver_k1 (v : Block) (s : State) : (deliver v s).k1 = s.k1 := rfl
@[simp] theorem deliver_k2 (v : Block) (s : State) : (deliver v s).k2 = s.k2 := rfl
@[simp] theorem deliver_cv (v : Block) (s : State) : (deliver v s).cv = s.cv := rfl
@[simp] theorem deliver_buf (v : Block) (s : State) : (deliver v s).buf = s.buf := rfl
@[simp] theorem deliver_bufLen (v : Block) (s : State) : (deliver v s).bufLen = s.bufLen := rfl
@[simp] theorem deliver_dout (v : Block) (s : State) : (deliver v s).dout = v := rfl
@[simp] theorem deliver_kv (v : Block) (s : State) : (deliver v s).kv = s.kv := rfl
@[simp] theorem deliver_ma (v : Block) (s : State) : (deliver v s).ma = s.ma := rfl
@[simp] theorem deliver_dv (v : Block) (s : State) : (deliver v s).dv = true := rfl
@[simp] theorem deliver_err (v : Block) (s : State) : (deliver v s).err = s.err := rfl
@[simp] theorem deliver_inputs (v : Block) (s : State) : (deliver v s).inputs = s.inputs := rfl

@[simp] theorem beginMessage_key (iv : Block) (s : State) : (beginMessage iv s).key = s.key := rfl
@[simp] theorem beginMessage_k1 (iv : Block) (s : State) : (beginMessage iv s).k1 = s.k1 := rfl
@[simp] theorem beginMessage_k2 (iv : Block) (s : State) : (beginMessage iv s).k2 = s.k2 := rfl
@[simp] theorem beginMessage_cv (iv : Block) (s : State) : (beginMessage iv s).cv = iv := rfl
@[simp] theorem beginMessage_buf (iv : Block) (s : State) : (beginMessage iv s).buf = 0#128 := rfl
@[simp] theorem beginMessage_bufLen (iv : Block) (s : State) : (beginMessage iv s).bufLen = 0 := rfl
@[simp] theorem beginMessage_dout (iv : Block) (s : State) : (beginMessage iv s).dout = s.dout := rfl
@[simp] theorem beginMessage_kv (iv : Block) (s : State) : (beginMessage iv s).kv = s.kv := rfl
@[simp] theorem beginMessage_ma (iv : Block) (s : State) : (beginMessage iv s).ma = true := rfl
@[simp] theorem beginMessage_dv (iv : Block) (s : State) : (beginMessage iv s).dv = s.dv := rfl
@[simp] theorem beginMessage_err (iv : Block) (s : State) : (beginMessage iv s).err = s.err := rfl
@[simp] theorem beginMessage_inputs (iv : Block) (s : State) : (beginMessage iv s).inputs = s.inputs := rfl

@[simp] theorem chainBlock_key (cfg : Config) (s : State) : (chainBlock cfg s).key = s.key := rfl
@[simp] theorem chainBlock_k1 (cfg : Config) (s : State) : (chainBlock cfg s).k1 = s.k1 := rfl
@[simp] theorem chainBlock_k2 (cfg : Config) (s : State) : (chainBlock cfg s).k2 = s.k2 := rfl
@[simp] theorem chainBlock_cv (cfg : Config) (s : State) : (chainBlock cfg s).cv = cfg.encrypt s.key (s.cv ^^^ s.buf) := rfl
@[simp] theorem chainBlock_buf (cfg : Config) (s : State) : (chainBlock cfg s).buf = 0#128 := rfl
@[simp] theorem chainBlock_bufLen (cfg : Config) (s : State) : (chainBlock cfg s).bufLen = 0 := rfl
@[simp] theorem chainBlock_dout (cfg : Config) (s : State) : (chainBlock cfg s).dout = s.dout := rfl
@[simp] theorem chainBlock_kv (cfg : Config) (s : State) : (chainBlock cfg s).kv = s.kv := rfl
@[simp] theorem chainBlock_ma (cfg : Config) (s : State) : (chainBlock cfg s).ma = s.ma := rfl
@[simp] theorem chainBlock_dv (cfg : Config) (s : State) : (chainBlock cfg s).dv = s.dv := rfl
@[simp] theorem chainBlock_err (cfg : Config) (s : State) : (chainBlock cfg s).err = s.err := rfl
@[simp] theorem chainBlock_inputs (cfg : Config) (s : State) : (chainBlock cfg s).inputs = s.inputs := rfl

@[simp] theorem putByte_key (b : Byte) (s : State) : (putByte b s).key = s.key := rfl
@[simp] theorem putByte_k1 (b : Byte) (s : State) : (putByte b s).k1 = s.k1 := rfl
@[simp] theorem putByte_k2 (b : Byte) (s : State) : (putByte b s).k2 = s.k2 := rfl
@[simp] theorem putByte_cv (b : Byte) (s : State) : (putByte b s).cv = s.cv := rfl
@[simp] theorem putByte_buf (b : Byte) (s : State) : (putByte b s).buf = setByte s.buf s.bufLen.val b := rfl
@[simp] theorem putByte_bufLen (b : Byte) (s : State) : (putByte b s).bufLen = s.bufLen + 1 := rfl
@[simp] theorem putByte_dout (b : Byte) (s : State) : (putByte b s).dout = s.dout := rfl
@[simp] theorem putByte_kv (b : Byte) (s : State) : (putByte b s).kv = s.kv := rfl
@[simp] theorem putByte_ma (b : Byte) (s : State) : (putByte b s).ma = s.ma := rfl
@[simp] theorem putByte_dv (b : Byte) (s : State) : (putByte b s).dv = s.dv := rfl
@[simp] theorem putByte_err (b : Byte) (s : State) : (putByte b s).err = s.err := rfl
@[simp] theorem putByte_inputs (b : Byte) (s : State) : (putByte b s).inputs = s.inputs := rfl

@[simp] theorem endMessage_key (tag : Block) (s : State) : (endMessage tag s).key = s.key := rfl
@[simp] theorem endMessage_k1 (tag : Block) (s : State) : (endMessage tag s).k1 = s.k1 := rfl
@[simp] theorem endMessage_k2 (tag : Block) (s : State) : (endMessage tag s).k2 = s.k2 := rfl
@[simp] theorem endMessage_cv (tag : Block) (s : State) : (endMessage tag s).cv = tag := rfl
@[simp] theorem endMessage_buf (tag : Block) (s : State) : (endMessage tag s).buf = 0#128 := rfl
@[simp] theorem endMessage_bufLen (tag : Block) (s : State) : (endMessage tag s).bufLen = 0 := rfl
@[simp] theorem endMessage_dout (tag : Block) (s : State) : (endMessage tag s).dout = tag := rfl
@[simp] theorem endMessage_kv (tag : Block) (s : State) : (endMessage tag s).kv = s.kv := rfl
@[simp] theorem endMessage_ma (tag : Block) (s : State) : (endMessage tag s).ma = false := rfl
@[simp] theorem endMessage_dv (tag : Block) (s : State) : (endMessage tag s).dv = true := rfl
@[simp] theorem endMessage_err (tag : Block) (s : State) : (endMessage tag s).err = s.err := rfl
@[simp] theorem endMessage_inputs (tag : Block) (s : State) : (endMessage tag s).inputs = s.inputs := rfl

end Sys2Proof.Machine
end

