-- ==== Sys2Proof/Laws/Ops.lean ====
section
/-! SUPPORT. What each shared operation can do, said once: the checks of R162, the byte step of ABSORB and its fold. -/

namespace Sys2Proof.Machine

/-! ### The checks -/

@[simp] theorem ignoreInFault_of_none {s t : State} (h : s.err = .none) : ignoreInFault s t = t := by
  simp [ignoreInFault, h]

@[simp] theorem ignoreInFault_of_fault {s t : State} (h : s.err ≠ .none) : ignoreInFault s t = s := by
  simp [ignoreInFault, h]

@[simp] theorem needKey_of_key {s t : State} (h : s.kv = true) : needKey s t = t := by simp [needKey, h]

@[simp] theorem needKey_of_noKey {s t : State} (h : s.kv = false) : needKey s t = s.raise .noKey := by
  simp [needKey, h]

@[simp] theorem needMessage_of_active {s t : State} (h : s.ma = true) : needMessage s t = t := by
  simp [needMessage, h]

@[simp] theorem needMessage_of_inactive {s t : State} (h : s.ma = false) :
    needMessage s t = s.raise .sequence := by simp [needMessage, h]

@[simp] theorem needNoMessage_of_inactive {s t : State} (h : s.ma = false) : needNoMessage s t = t := by
  simp [needNoMessage, h]

@[simp] theorem needNoMessage_of_active {s t : State} (h : s.ma = true) :
    needNoMessage s t = s.raise .sequence := by simp [needNoMessage, h]

@[simp] theorem needLength_of_le {len : Byte} {s t : State} (h : len.toNat ≤ 16) : needLength len s t = t := by
  simp [needLength, h]

@[simp] theorem needLength_of_gt {len : Byte} {s t : State} (h : 16 < len.toNat) :
    needLength len s t = s.raise .length := by
  simp [needLength, Nat.not_le.mpr h]

/-- Everything a checked command can do: it is ignored, or the rest of its checks decide. -/
theorem ignoreInFault_cases (s t : State) :
    (s.err ≠ .none ∧ ignoreInFault s t = s) ∨ (s.err = .none ∧ ignoreInFault s t = t) := by
  by_cases h : s.err = .none
  · exact .inr ⟨h, ignoreInFault_of_none h⟩
  · exact .inl ⟨h, ignoreInFault_of_fault h⟩

theorem needKey_cases (s t : State) :
    (s.kv = false ∧ needKey s t = s.raise .noKey) ∨ (s.kv = true ∧ needKey s t = t) := by
  cases h : s.kv
  · exact .inl ⟨rfl, needKey_of_noKey h⟩
  · exact .inr ⟨rfl, needKey_of_key h⟩

theorem needMessage_cases (s t : State) :
    (s.ma = false ∧ needMessage s t = s.raise .sequence) ∨ (s.ma = true ∧ needMessage s t = t) := by
  cases h : s.ma
  · exact .inl ⟨rfl, needMessage_of_inactive h⟩
  · exact .inr ⟨rfl, needMessage_of_active h⟩

theorem needNoMessage_cases (s t : State) :
    (s.ma = true ∧ needNoMessage s t = s.raise .sequence) ∨ (s.ma = false ∧ needNoMessage s t = t) := by
  cases h : s.ma
  · exact .inr ⟨rfl, needNoMessage_of_inactive h⟩
  · exact .inl ⟨rfl, needNoMessage_of_active h⟩

theorem needLength_cases (len : Byte) (s t : State) :
    (16 < len.toNat ∧ needLength len s t = s.raise .length) ∨ (len.toNat ≤ 16 ∧ needLength len s t = t) := by
  by_cases h : len.toNat ≤ 16
  · exact .inr ⟨h, needLength_of_le h⟩
  · exact .inl ⟨by omega, needLength_of_gt (by omega)⟩

/-! ### `absorb_byte` -/

/-- A byte that finds room. -/
theorem absorbByte_room (cfg : Config) {s : State} (b : Byte) (h : s.bufLen ≠ 16) :
    absorbByte cfg s b = putByte b s := by simp [absorbByte, h]

/-- A byte that finds the buffer full: the full block is chained first. -/
theorem absorbByte_full (cfg : Config) {s : State} (b : Byte) (h : s.bufLen = 16) :
    absorbByte cfg s b = putByte b (chainBlock cfg s) := by simp [absorbByte, h]

/-- What a byte step leaves as it was. -/
theorem absorbByte_frame (cfg : Config) (s : State) (b : Byte) :
    (absorbByte cfg s b).key = s.key ∧ (absorbByte cfg s b).k1 = s.k1 ∧ (absorbByte cfg s b).k2 = s.k2 ∧
    (absorbByte cfg s b).dout = s.dout ∧ (absorbByte cfg s b).kv = s.kv ∧ (absorbByte cfg s b).ma = s.ma ∧
    (absorbByte cfg s b).dv = s.dv ∧ (absorbByte cfg s b).err = s.err ∧
    (absorbByte cfg s b).inputs = s.inputs := by
  by_cases h : s.bufLen = 16
  · rw [absorbByte_full cfg b h]; simp
  · rw [absorbByte_room cfg b h]; simp

/-- The count after a byte step (R133). -/
theorem absorbByte_bufLen (cfg : Config) (s : State) (b : Byte) :
    (absorbByte cfg s b).bufLen.val = if s.bufLen = 16 then 1 else s.bufLen.val + 1 := by
  by_cases h : s.bufLen = 16
  · rw [absorbByte_full cfg b h]; simp [h]
  · rw [absorbByte_room cfg b h]
    have hlt : s.bufLen.val < 16 := by
      have := s.bufLen.isLt
      have hne : s.bufLen.val ≠ 16 := fun e => h (Fin.ext e)
      omega
    simp only [putByte_bufLen, if_neg h]
    rw [Fin.val_add_one_of_lt (by rw [Fin.lt_def]; simpa using hlt)]

@[simp] theorem absorbBytes_nil (cfg : Config) (s : State) : absorbBytes cfg s [] = s := rfl

@[simp] theorem absorbBytes_cons (cfg : Config) (s : State) (b : Byte) (l : List Byte) :
    absorbBytes cfg s (b :: l) = absorbBytes cfg (absorbByte cfg s b) l := rfl

theorem absorbBytes_append (cfg : Config) (s : State) (l l' : List Byte) :
    absorbBytes cfg s (l ++ l') = absorbBytes cfg (absorbBytes cfg s l) l' := by
  simp [absorbBytes, List.foldl_append]

/-- What a beat leaves as it was (R134, flags written: none). -/
theorem absorbBytes_frame (cfg : Config) (l : List Byte) (s : State) :
    (absorbBytes cfg s l).key = s.key ∧ (absorbBytes cfg s l).k1 = s.k1 ∧ (absorbBytes cfg s l).k2 = s.k2 ∧
    (absorbBytes cfg s l).dout = s.dout ∧ (absorbBytes cfg s l).kv = s.kv ∧ (absorbBytes cfg s l).ma = s.ma ∧
    (absorbBytes cfg s l).dv = s.dv ∧ (absorbBytes cfg s l).err = s.err ∧
    (absorbBytes cfg s l).inputs = s.inputs := by
  induction l generalizing s with
  | nil => simp
  | cons b l ih =>
    have h := ih (absorbByte cfg s b)
    have f := absorbByte_frame cfg s b
    simp only [f] at h
    simpa using h

end Sys2Proof.Machine
end

