-- ==== Sys2Proof/Laws/PerInstr.lean ====
section
/-! SUPPORT. Facts about every command as syntax, one lemma per constructor. -/

namespace Sys2Proof.Laws.OpcodeByte

/-- The word of a command carries its opcode in `cmd[143:136]`, one of R74's ten. -/
def Statement (i : Instr) : Prop := cmdOp (encode i) = opcode i ∧ (opcode i).toNat ≤ 9

theorem nop : Statement .nop := ⟨cmdOp_mkWord _ _ _, by simp [opcode]⟩
theorem loadkey (key : Block) : Statement (.loadkey key) := ⟨cmdOp_mkWord _ _ _, by simp [opcode]⟩
theorem init (iv : Block) : Statement (.init iv) := ⟨cmdOp_mkWord _ _ _, by simp [opcode]⟩
theorem absorb (len : Byte) (data : Block) : Statement (.absorb len data) := ⟨cmdOp_mkWord _ _ _, by simp [opcode]⟩
theorem final : Statement .final := ⟨cmdOp_mkWord _ _ _, by simp [opcode]⟩
theorem enc (block : Block) : Statement (.enc block) := ⟨cmdOp_mkWord _ _ _, by simp [opcode]⟩
theorem rdkey : Statement .rdkey := ⟨cmdOp_mkWord _ _ _, by simp [opcode]⟩
theorem rdk1 : Statement .rdk1 := ⟨cmdOp_mkWord _ _ _, by simp [opcode]⟩
theorem rdk2 : Statement .rdk2 := ⟨cmdOp_mkWord _ _ _, by simp [opcode]⟩
theorem clr : Statement .clr := ⟨cmdOp_mkWord _ _ _, by simp [opcode]⟩

end Sys2Proof.Laws.OpcodeByte
end

