-- ==== Sys2Proof/Laws/Step.lean ====
section
/-! SUPPORT. Each arm of `exec`, and everything one step can do. -/

namespace Sys2Proof.Machine

@[simp] theorem exec_nop (s : State) : exec .nop s = .next s := rfl
@[simp] theorem exec_loadkey (key : Block) (s : State) :
    exec (.loadkey key) s = .next (loadkey Config.hardware key s) := rfl
@[simp] theorem exec_init (iv : Block) (s : State) : exec (.init iv) s = .next (init iv s) := rfl
@[simp] theorem exec_absorb (len : Byte) (data : Block) (s : State) :
    exec (.absorb len data) s = .next (absorb Config.hardware len data s) := rfl
@[simp] theorem exec_final (s : State) : exec .final s = .next (final Config.hardware s) := rfl
@[simp] theorem exec_enc (block : Block) (s : State) :
    exec (.enc block) s = .next (enc Config.hardware block s) := rfl
@[simp] theorem exec_rdkey (s : State) : exec .rdkey s = .next (rdkey s) := rfl
@[simp] theorem exec_rdk1 (s : State) : exec .rdk1 s = .next (rdk1 s) := rfl
@[simp] theorem exec_rdk2 (s : State) : exec .rdk2 s = .next (rdk2 s) := rfl
@[simp] theorem exec_clr (s : State) : exec .clr s = .next s.clear := rfl

theorem step_nil {s : State} (h : s.inputs = []) : step s = .next s := by simp [step, h]

theorem step_cons {s : State} {p : HostInput} {rest : List HostInput} (h : s.inputs = p :: rest) :
    step s = handle (portEvent p) { s with inputs := rest } := by simp [step, h]

@[simp] theorem handle_idle (s : State) : handle .idle s = .next s := rfl
@[simp] theorem handle_reset (s : State) : handle .reset s = .next s.clear := rfl
@[simp] theorem handle_command (w : CmdWord) (s : State) : handle (.command w) s = acceptWord w s := rfl
@[simp] theorem portEvent_present (w : CmdWord) : portEvent (present w) = .command w := rfl

theorem acceptWord_of_ok {w : CmdWord} {i : Instr} (h : decode w = .ok i) (s : State) :
    acceptWord w s = exec i s := by simp [acceptWord, h]

theorem acceptWord_of_error {w : CmdWord} {e : DecodeError} (h : decode w = .error e) (s : State) :
    acceptWord w s = execReserved s := by simp [acceptWord, h]

/-- Everything one step can do: nothing, a reset, a command, or the answer to a reserved opcode. -/
theorem step_cases {s t : State} (h : step s = .next t) :
    (s.inputs = [] ∧ t = s) ∨
    ∃ p rest, s.inputs = p :: rest ∧
      ((portEvent p = .idle ∧ t = { s with inputs := rest }) ∨
       (portEvent p = .reset ∧ t = { State.reset with inputs := rest }) ∨
       (∃ w i, portEvent p = .command w ∧ decode w = .ok i ∧ exec i { s with inputs := rest } = .next t) ∨
       (∃ w e, portEvent p = .command w ∧ decode w = .error e ∧
          execReserved { s with inputs := rest } = .next t)) := by
  cases hi : s.inputs with
  | nil => rw [step_nil hi] at h; exact .inl ⟨rfl, by injection h with h; exact h.symm⟩
  | cons p rest =>
    rw [step_cons hi] at h
    refine .inr ⟨p, rest, rfl, ?_⟩
    cases hp : portEvent p with
    | idle => rw [hp] at h; exact .inl ⟨rfl, by injection h with h; exact h.symm⟩
    | reset =>
      rw [hp] at h
      exact .inr (.inl ⟨rfl, by injection h with h; exact h.symm⟩)
    | command w =>
      rw [hp, handle_command] at h
      cases hd : decode w with
      | ok i => rw [acceptWord_of_ok hd] at h; exact .inr (.inr (.inl ⟨w, i, rfl, hd, h⟩))
      | error e => rw [acceptWord_of_error hd] at h; exact .inr (.inr (.inr ⟨w, e, rfl, hd, h⟩))

end Sys2Proof.Machine
end

