-- ==== Sys2Proof/Tests/Slice0.lean ====
section
/-! SUPPORT. The model's own tests. Every expected value is the spec's: `95_test_vectors.md` (its V and T numbers stand
at the tests) or a rule's worked example. -/

-- One test at a time: many kernel evaluations at once would each ask for a thread's stack of their own.
set_option Elab.async false

namespace Sys2Proof.Machine.Tests

/-! ### Small states -/

/-- The key of the source's known-answer tests (V1 to V6). -/
def katKey : Block := 0x2b7e151628aed2a6abf7158809cf4f3c#128

/-- IDLE with that key: the registers of T3.30. -/
def idle : State :=
  { State.reset with
    key := katKey
    k1 := 0xfbeed618357133667c85e08f7236a8de#128
    k2 := 0xf7ddac306ae266ccf90bc11ee46d513b#128
    kv := true }

/-- ACTIVE with that key, the zero IV and the bytes given as a left-justified Block (section 5.2 of the vectors). -/
def active (buf : Block) (n : Fin 17) : State := { idle with buf := buf, bufLen := n, ma := true }

/-- The FAULT state of section 5.3. -/
def faulted : State :=
  { idle with dout := 0xbb1d6929e95937287fa37d129b756746#128, dv := true, err := .sequence }

/-- A field of the state a command answers. -/
def after {α : Type} (o : Host.Outcome State Fault Refusal) (f : State → α) : Option α :=
  match o with
  | .next t => some (f t)
  | .fault _ => none
  | .refused _ => none

/-! ### Well-formedness: the smoke test -/

/-- Bits below the four bytes of a beat are not canonical (R80, T5.6). -/
theorem test_absorb_with_ignored_bits_refused :
    (Instr.absorb 4#8 0xae2d8a57ffffffffffffffffffffffff#128).wellFormed = false := by decide

theorem test_absorb_canonical_accepted :
    (Instr.absorb 4#8 0xae2d8a57000000000000000000000000#128).wellFormed = true := by decide

/-! ### Decoding: words written out from R71 and R74 (T5.1 to T5.14) -/

theorem test_decode_nop : decode 0x000000000000000000000000000000000000#144 = .ok .nop := by decide
theorem test_decode_nop_ignored : decode 0x00ffffffffffffffffffffffffffffffffff#144 = .ok .nop := by decide
theorem test_decode_loadkey : decode 0x01002b7e151628aed2a6abf7158809cf4f3c#144 = .ok (.loadkey katKey) := by decide
theorem test_decode_init :
    decode 0x0200ce0cbf1738f4df6428b1d93bf12081c9#144
      = .ok (.init 0xce0cbf1738f4df6428b1d93bf12081c9#128) := by decide
theorem test_decode_absorb :
    decode 0x0304ae2d8a57000000000000000000000000#144
      = .ok (.absorb 4#8 0xae2d8a57000000000000000000000000#128) := by decide
theorem test_decode_absorb_ignored :
    decode 0x0304ae2d8a57ffffffffffffffffffffffff#144
      = .ok (.absorb 4#8 0xae2d8a57000000000000000000000000#128) := by decide
theorem test_decode_absorb_over_long :
    decode 0x031100000000000000000000000000000000#144 = .ok (.absorb 17#8 0#128) := by decide
theorem test_decode_final : decode 0x0410aaaaaaaaaaaaaaaaaaaaaaaaaaaaaaaa#144 = .ok .final := by decide
theorem test_decode_enc :
    decode 0x05003243f6a8885a308d313198a2e0370734#144
      = .ok (.enc 0x3243f6a8885a308d313198a2e0370734#128) := by decide
theorem test_decode_rdkey : decode 0x060000000000000000000000000000000000#144 = .ok .rdkey := by decide
theorem test_decode_rdk1 : decode 0x070000000000000000000000000000000000#144 = .ok .rdk1 := by decide
theorem test_decode_rdk2 : decode 0x080000000000000000000000000000000000#144 = .ok .rdk2 := by decide
theorem test_decode_clr : decode 0x090000000000000000000000000000000000#144 = .ok .clr := by decide
theorem test_decode_reserved :
    decode 0x0a0000000000000000000000000000000000#144 = .error (.illegalOpcode 0x0a#8) := by decide
theorem test_decode_reserved_high :
    decode 0xffffffffffffffffffffffffffffffffffff#144 = .error (.illegalOpcode 0xff#8) := by decide

/-- The word of T3.30 written out bit by bit: opcode `00000001`, eight ignored bits, then the key. -/
theorem test_decode_bits :
    decode (0b00000001#8 ++ 0b00000000#8 ++ katKey : BitVec (8 + 8 + 128)) = .ok (.loadkey katKey) := by decide

/-- R80's canonical `ABSORB ae2d8a57`. -/
theorem test_encode_absorb :
    encode (absorbBeat [0xae#8, 0x2d#8, 0x8a#8, 0x57#8]) = 0x0304ae2d8a57000000000000000000000000#144 := by
  decide +kernel

/-- R72's frame of LOADKEY begins `01 00 2b 7e` and is eighteen bytes. -/
theorem test_frame_loadkey :
    (encodeFrame (.loadkey katKey)).take 4 = [0x01#8, 0x00#8, 0x2b#8, 0x7e#8] ∧
    (encodeFrame (.loadkey katKey)).length = 18 := by decide

theorem test_decodeTableWord_enc :
    decodeTableWord 144 0x05003243f6a8885a308d313198a2e0370734
      = some (.enc 0x3243f6a8885a308d313198a2e0370734#128) := by decide +kernel
theorem test_decodeTableWord_reserved :
    decodeTableWord 144 0x800000000000000000000000000000000000 = none := by decide +kernel

/-! ### The cipher (sections 2.1 to 2.4) -/

/-- T2.14, T2.15. -/
theorem test_xtime : xtime 0x80#8 = 0x1b#8 ∧ xtime 0xff#8 = 0xe5#8 := by decide
/-- T2.18, T2.22. -/
theorem test_gfMul : gfMul 0x57#8 0x13#8 = 0xfe#8 ∧ gfMul 0x53#8 0xca#8 = 0x01#8 := by decide
/-- T2.24, T2.26, T2.29. -/
theorem test_sbox : sbox 0x00#8 = 0x63#8 ∧ sbox 0x53#8 = 0xed#8 ∧ sbox 0xff#8 = 0x16#8 := by decide +kernel
/-- T2.32. -/
theorem test_subBytes :
    subBytes 0x193de3bea0f4e22b9ac68d2ae9f84808#128 = 0xd42711aee0bf98f1b8b45de51e415230#128 := by decide +kernel
/-- T2.34. -/
theorem test_shiftRows :
    shiftRows 0x000102030405060708090a0b0c0d0e0f#128 = 0x00050a0f04090e03080d02070c01060b#128 := by decide +kernel
/-- T2.35. -/
theorem test_mixColumns :
    mixColumns 0xd4bf5d30e0b452aeb84111f11e2798e5#128 = 0x046681e5e0cb199a48f8d37a2806264c#128 := by decide +kernel
/-- Section 2.3: `w[4]`, `w[5]` and `w[43]` of the known-answer key. -/
theorem test_keyWord :
    keyWord katKey 4 = 0xa0fafe17#32 ∧ keyWord katKey 5 = 0x88542cb1#32 ∧ keyWord katKey 43 = 0xb6630ca6#32 := by
  decide +kernel
/-- T2.1. -/
theorem test_aes128_published :
    aes128 katKey 0x3243f6a8885a308d313198a2e0370734#128 = 0x3925841d02dc09fbdc118597196a0b32#128 := by
  decide +kernel
/-- T2.2. -/
theorem test_aes128_published_second :
    aes128 0x000102030405060708090a0b0c0d0e0f#128 0x00112233445566778899aabbccddeeff#128
      = 0x69c4e0d86a7b0430d8cdb78070b4c55a#128 := by decide +kernel

/-! ### Subkeys and the key commands (section 3) -/

/-- T3.2, T3.3, T3.4. -/
theorem test_dbl :
    dbl 0x80000000000000000000000000000000#128 = 0x87#128 ∧
    dbl 0x40000000000000000000000000000000#128 = 0x80000000000000000000000000000000#128 ∧
    dbl 0xffffffffffffffffffffffffffffffff#128 = 0xffffffffffffffffffffffffffffff79#128 := by decide
/-- T3.7, T3.12: the direction of the carries. -/
theorem test_dbl_carry :
    dbl 0x00800000000000000000000000000000#128 = 0x01000000000000000000000000000000#128 ∧
    dbl 0x0123456789abcdef0123456789abcdef#128 = 0x02468acf13579bde02468acf13579bde#128 := by decide
/-- T3.24: both top bits set. -/
theorem test_newKeyMaterial_both_xors :
    newKeyMaterial Config.hardware 0x4#128 =
      { rawKey := 0x4#128, subkey1 := 0xebe7210cc8df180bda2ddf496c2f2a7f#128,
        subkey2 := 0xd7ce421991be3017b45bbe92d85e5479#128 } := by decide +kernel
/-- T3.30 (V1, V2): the whole state after LOADKEY from reset. -/
theorem test_loadkey : after (exec (.loadkey katKey) .reset) id = some idle := by decide +kernel
/-- T3.35, T5.33. -/
theorem test_loadkey_mid_message :
    after (exec (.loadkey 0x0#128) (active 0x61626300000000000000000000000000#128 3)) status = some 0x033b#16 := by
  decide
/-- T3.31. -/
theorem test_rdkey : after (exec .rdkey idle) (fun t => (t.dout, status t)) = some (katKey, 0x0005#16) := by decide
/-- T3.32. -/
theorem test_rdk1 : after (exec .rdk1 idle) State.dout = some 0xfbeed618357133667c85e08f7236a8de#128 := by decide
/-- T3.36. -/
theorem test_rdk1_no_key : after (exec .rdk1 .reset) (fun t => (t.dout, status t)) = some (0#128, 0x0028#16) := by
  decide
/-- T3.37. -/
theorem test_rdk2_in_message :
    after (exec .rdk2 (active 0x61626300000000000000000000000000#128 3)) (fun t => (t.dout, status t))
      = some (0xf7ddac306ae266ccf90bc11ee46d513b#128, 0x0307#16) := by decide
/-- T2.50. -/
theorem test_enc :
    after (exec (.enc 0x3243f6a8885a308d313198a2e0370734#128) idle) (fun t => (t.dout, status t))
      = some (0x3925841d02dc09fbdc118597196a0b32#128, 0x0005#16) := by decide +kernel
/-- T2.53. -/
theorem test_enc_no_key :
    after (exec (.enc 0x3243f6a8885a308d313198a2e0370734#128) .reset) (fun t => (t.dout, status t))
      = some (0#128, 0x0028#16) := by decide

/-! ### Messages (section 4) -/

/-- V4's message. -/
def block1 : Block := 0x6bc1bee22e409f96e93d7e117393172a#128

/-- The 40 bytes of V5. -/
def message40 : List Byte :=
  messageBytes 16 block1 ++ messageBytes 16 0xae2d8a571e03ac9c9eb76fac45af8e51#128 ++
    messageBytes 8 0x30c81c46a35ce4110000000000000000#128

/-- V3. -/
theorem test_compute_empty :
    compute Config.hardware (newKeyMaterial Config.hardware katKey) 0#128 []
      = 0xbb1d6929e95937287fa37d129b756746#128 := by decide +kernel
/-- V4. -/
theorem test_compute_one_block :
    compute Config.hardware (newKeyMaterial Config.hardware katKey) 0#128 (messageBytes 16 block1)
      = 0x070a16b46b4d4144f79bdd9dd04a287c#128 := by decide +kernel
/-- V5. -/
theorem test_compute_forty_bytes :
    compute Config.hardware (newKeyMaterial Config.hardware katKey) 0#128 message40
      = 0xdfa66747de9ae63030ca32611497c827#128 := by decide +kernel
/-- V6, with D33's message. -/
theorem test_compute_four_blocks :
    compute Config.hardware (newKeyMaterial Config.hardware katKey) 0#128
      (messageBytes 16 block1 ++ messageBytes 16 0xae2d8a571e03ac9c9eb76fac45af8e51#128 ++
        messageBytes 16 0x30c81c46a35ce411e5fbc1191a0a52ef#128 ++
        messageBytes 16 0xf69f2445df4f9b17ad2b417be66c3710#128)
      = 0x51f0bebf7e3b9d92fc49741779363cfe#128 := by decide +kernel
/-- T4.28: a non-zero IV. -/
theorem test_compute_nonzero_iv :
    compute Config.hardware (newKeyMaterial Config.hardware katKey) 0x000102030405060708090a0b0c0d0e0f#128
      (message40.take 20) = 0x8ef62b9c5da3eb8a488162ed8d9f3678#128 := by decide +kernel

/-- P6 step 3: INIT in ACTIVE restarts. -/
theorem test_init_restarts :
    after (exec (.init 0x5#128) (active 0x67617262616765000000000000000000#128 7)) id
      = some { active 0#128 0 with cv := 0x5#128 } := by decide
/-- T5.20. -/
theorem test_init_no_key : after (exec (.init 0#128) .reset) status = some 0x0028#16 := by decide
/-- R134's example, second beat: the full block is chained, the four bytes start the next. -/
theorem test_absorb_chains_full_block :
    after (exec (.absorb 4#8 0xae2d8a57000000000000000000000000#128) (active block1 16)) id
      = some { active 0xae2d8a57000000000000000000000000#128 4 with
          cv := 0x3ad77bb40d7a3660a89ecaf32466ef97#128 } := by decide +kernel
/-- P3 step 4 (T4.48): sixteen bytes at `BUFLEN = 5`. -/
theorem test_absorb_across_blocks :
    after (exec (.absorb 16#8 0x409f96e93d7e117393172aae2d8a571e#128)
        (active 0x6bc1bee22e0000000000000000000000#128 5)) (fun t => (t.cv, t.buf, t.bufLen))
      = some (0x3ad77bb40d7a3660a89ecaf32466ef97#128, 0xae2d8a571e0000000000000000000000#128, 5) := by
  decide +kernel
/-- P2 step 3 (V3): FINAL on the empty message. -/
theorem test_final_empty :
    after (exec .final (active 0#128 0)) (fun t => (t.dout, status t))
      = some (0xbb1d6929e95937287fa37d129b756746#128, 0x0005#16) := by decide +kernel
/-- P5 step 11 (V4): FINAL on a complete last block. -/
theorem test_final_complete :
    after (exec .final (active block1 16)) (fun t => (t.dout, status t))
      = some (0x070a16b46b4d4144f79bdd9dd04a287c#128, 0x0005#16) := by decide +kernel

/-! ### Faults, the lock, CLR, NOP (section 5) -/

/-- T5.21, T5.28, T5.31: one word, three phases, three codes (R162). -/
theorem test_absorb_fault_priority :
    after (exec (.absorb 200#8 0#128) .reset) status = some 0x0028#16 ∧
    after (exec (.absorb 200#8 0#128) idle) status = some 0x0039#16 ∧
    after (exec (.absorb 17#8 0#128) (active 0x61626300000000000000000000000000#128 3)) status = some 0x034b#16 := by
  decide
/-- T5.29. -/
theorem test_final_idle : after (exec .final idle) status = some 0x0039#16 := by decide
/-- T5.26: a reserved opcode from reset, by a whole step. -/
theorem test_step_reserved :
    after (step (State.reset.withFetchWord 144 0x0a0000000000000000000000000000000000)) id
      = some { State.reset with err := .illegalOpcode } := by decide +kernel
/-- T5.44: ignored in FAULT, the first code is kept. -/
theorem test_step_reserved_in_fault :
    after (step (faulted.withFetchWord 144 0x770000000000000000000000000000000000)) id = some faulted := by
  decide +kernel
/-- T5.43. -/
theorem test_rdkey_in_fault : after (exec .rdkey faulted) id = some faulted := by decide
/-- T5.46. -/
theorem test_nop_in_fault : after (exec .nop faulted) status = some 0x003d#16 := by decide
/-- T5.47. -/
theorem test_clr : after (exec .clr faulted) id = some .reset := by decide
/-- R185: `rst` overrides the command presented with it. -/
theorem test_reset_overrides_command :
    after (step { idle with inputs := [{ rst := true, cmdValid := true, cmd := encode (.enc 0#128) }] }) id
      = some .reset := by decide +kernel
/-- R65: nothing is accepted. -/
theorem test_idle_sample :
    after (step { idle with inputs := [{ rst := false, cmdValid := false, cmd := encode .clr }] }) id = some idle := by
  decide +kernel

/-! ### Text (R79 to R81) -/

/-- R80: `ABSORB ae2d8a57 # a beat`. -/
theorem test_assemble_absorb :
    assembleLine (mnAbsorb ++ [' ', 'a', 'e', '2', 'd', '8', 'A', '5', '7', ' ', '#', ' ', 'x'])
      = some [.absorb 4#8 0xae2d8a57000000000000000000000000#128] := by decide +kernel
/-- R81: NEWKEY is CLR and LOADKEY; the text of a command assembles to it. -/
theorem test_assemble_newkey :
    assembleLine (mnNewkey ++ ' ' :: hexOfBlock katKey) = some [.clr, .loadkey katKey] := by decide +kernel
theorem test_disassemble_loadkey :
    (disassemble (.loadkey katKey)).bind assembleLine = some [.loadkey katKey] := by decide +kernel
/-- R81: CMAC with an empty message has no ABSORB. -/
theorem test_assemble_cmac_empty :
    assembleLine (mnCmac ++ ' ' :: hexOfBlock katKey ++ ',' :: ' ' :: hexOfBlock 0#128 ++ [','])
      = some [.loadkey katKey, .init 0#128, .final] := by decide +kernel

/-! ### Witnesses: for each statement with hypotheses, operands that meet them all together, at the boundary values -/

/-- One sample on the ports of a state. -/
def withSample (s : State) (rst valid : Bool) (w : CmdWord) : State :=
  { s with inputs := [{ rst := rst, cmdValid := valid, cmd := w }] }

/-- The first and the last reserved opcode. -/
def reservedFirst : CmdWord := 0x0a0000000000000000000000000000000000#144
def reservedLast : CmdWord := 0xffffffffffffffffffffffffffffffffffff#144

/-- ResetStateIsAllZero, ResetOverridesAnyCommand, NothingAcceptedChangesNothing. -/
theorem witness_reset_and_idle_samples :
    exec .clr faulted = .next faulted.clear ∧
    step (withSample faulted true true reservedLast) = .next .reset ∧
    (withSample faulted true true reservedLast).inputs = [{ rst := true, cmdValid := true, cmd := reservedLast }] ∧
    idle.inputs = [] ∧
    (withSample idle false false 0#144).inputs = [{ rst := false, cmdValid := false, cmd := 0#144 }] :=
  ⟨rfl, rfl, rfl, rfl, rfl⟩

/-- StepRunsDecodedCommand, ReservedOpcodeRaisesIllegalOpcode, ChecksFollowPriority's and PhaseTransitionTable's words,
FaultLockIgnoresEveryWordButClr: the samples are accepted words, `present w`. -/
theorem witness_accepted_words :
    (withSample idle false true (encode .rdk1)).inputs = [present (encode .rdk1)] ∧
    decode (encode .rdk1) = .ok .rdk1 ∧ (portEvent (present (encode .rdk1))) = .command (encode .rdk1) ∧
    0x0A ≤ (cmdOp reservedFirst).toNat ∧ 0x0A ≤ (cmdOp reservedLast).toNat ∧
    faulted.err ≠ .none ∧ idle.err = .none ∧ cmdOp reservedFirst ≠ 0x09#8 ∧ cmdOp (encode .rdk1) ≠ 0x09#8 := by
  decide +kernel

/-- DecodeOfEncodeIsIdentity, DecodedCommandIsCanonical, RunExecutesCommandsInOrder: canonical commands, ABSORB with
lengths 0, 16, 17 and 255 among them. -/
theorem witness_well_formed :
    (∀ i ∈ [Instr.nop, .loadkey katKey, .absorb 0#8 0#128, .absorb 16#8 katKey, .absorb 17#8 katKey,
      .absorb 255#8 katKey, .final], i.wellFormed = true) ∧
    decode reservedLast = .error (.illegalOpcode 0xff#8) ∧
    (Instr.absorb 0#8 1#128).wellFormed = false := by decide

/-- IgnoredFieldsHaveNoEffect: two different words for each of its clauses, and two data fields of one beat. -/
theorem witness_ignored_fields :
    (cmdOp (mkWord 1#8 0#8 katKey) = cmdOp (mkWord 1#8 9#8 katKey) ∧ cmdOp (mkWord 1#8 0#8 katKey) ≠ 3#8 ∧
      cmdData (mkWord 1#8 0#8 katKey) = cmdData (mkWord 1#8 9#8 katKey) ∧
      mkWord 1#8 0#8 katKey ≠ mkWord 1#8 9#8 katKey) ∧
    (cmdOp (mkWord 9#8 0#8 0#128) = cmdOp (mkWord 9#8 7#8 katKey) ∧ cmdOp (mkWord 9#8 0#8 0#128) = 9#8) ∧
    (∀ n ∈ [0, 1, 15], ∀ i < 16, i < n → byte 0#128 i = byte ((1#128 <<< (8 * (16 - n))) - 1#128) i) ∧
    cmdLen (mkWord 3#8 15#8 0#128) = cmdLen (mkWord 3#8 15#8 255#128) := by decide +kernel

/-- The words of the command statements: `cmdOp` at each of the ten opcodes. -/
theorem witness_opcodes :
    ∀ n ∈ [0, 1, 2, 3, 4, 5, 6, 7, 8, 9], cmdOp (mkWord (BitVec.ofNat 8 n) 0xff#8 katKey) = BitVec.ofNat 8 n := by
  decide +kernel

/-- The three or more clauses of LoadkeyConstructsKeyMaterial, InitBeginsMessage, AbsorbFoldsByteSteps,
FinalDeliversTag, EncEncryptsUnderKey and KeyReadsDeliverTheirRegister: a state in FAULT, without a key, IDLE, ACTIVE;
and the beat lengths where two clauses of ABSORB meet. -/
theorem witness_phases_of_commands :
    faulted.err ≠ .none ∧ (State.reset.err = .none ∧ State.reset.kv = false) ∧
    (idle.err = .none ∧ idle.kv = true ∧ idle.ma = false) ∧
    ((active block1 16).err = .none ∧ (active block1 16).kv = true ∧ (active block1 16).ma = true) ∧
    (16#8).toNat ≤ 16 ∧ 16 < (17#8).toNat ∧ (active block1 16).bufLen.val = 16 ∧
    (active 0#128 0).bufLen.val ≠ 16 := by decide

/-- AbsorbByteChainsLate, AbsorbClosedForm: a full buffer, one with room for one byte, an empty one, each with zeros
beyond its bytes; and rows of 16 and of 17 bytes. -/
theorem witness_absorb_buffers :
    (active block1 16).bufLen = 16 ∧ (active (setByte block1 15 0#8) 15).bufLen.val < 16 ∧
    (∀ i, 15 ≤ i → i ≤ 15 → byte (active (setByte block1 15 0#8) 15).buf i = 0#8) ∧
    (∀ i, 16 ≤ i → i ≤ 15 → byte (active block1 16).buf i = 0#8) ∧
    (messageBytes 15 (setByte block1 15 0#8) ++ messageBytes 1 block1).length = 16 ∧
    (messageBytes 15 (setByte block1 15 0#8) ++ messageBytes 2 block1).length = 17 := by
  refine ⟨by decide, by decide, ?_, fun i h1 h2 => absurd h1 (by omega), by decide, by decide⟩
  intro i h1 h2
  obtain rfl : i = 15 := by omega
  decide +kernel

/-- ChecksFollowPriority, FaultCausesAndCodes, FaultEntryWritesErrOnly, RegistersHaveTheirWritersOnly: each verdict, each
fault from `ERR = 0`, and a step that records a fault. -/
theorem witness_verdicts :
    verdict .final faulted = .ignore ∧ verdict .final .reset = .fault .noKey ∧
    verdict .final idle = .fault .sequence ∧ verdict (.loadkey katKey) (active block1 16) = .fault .sequence ∧
    verdict (.absorb 17#8 0#128) (active block1 16) = .fault .length ∧
    verdict (.absorb 16#8 0#128) (active block1 16) = .execute ∧ verdict .nop faulted = .execute ∧
    exec .final idle = .next (idle.raise .sequence) ∧
    step (withSample idle false true (encode .final)) = .next (idle.raise .sequence) := by
  refine ⟨by decide, by decide, by decide, by decide, by decide, by decide, by decide, rfl, rfl⟩

/-- FaultEntryWritesErrOnly's second clause, FaultIsLeftOnlyByClrOrReset, KeyMaterialIsImmutable: steps from FAULT that
stay in it and that leave it, and a step by LOADKEY. -/
theorem witness_steps_from_fault :
    step (withSample faulted false true (encode .final)) = .next faulted ∧
    step (withSample faulted false true (encode .clr)) = .next .reset ∧
    step (withSample faulted true false 0#144) = .next .reset ∧
    step (withSample idle false true (encode (.loadkey 0#128)))
      = .next (storeKey (newKeyMaterial Config.hardware 0#128) idle) := ⟨rfl, rfl, rfl, rfl⟩

/-- DoutPortShowsResultRegister: a state without a result in which `DOUT` is zero, one with a result, and the sample of a
host that only reads the ports. -/
theorem witness_dout_port :
    (State.reset.dv = false ∧ State.reset.dout = 0#128) ∧
    after (exec .rdk1 idle) (fun t => (t.dv, (outputs t).dout)) = some (true, idle.k1) ∧
    step (withSample idle false false 0#144) = .next idle := ⟨⟨rfl, rfl⟩, by decide, rfl⟩

/-- PhaseTransitionTable's invariant (I1). -/
theorem witness_active_has_key : (active block1 16).ma = true ∧ (active block1 16).kv = true := by decide

/-- LastBlockIsPaddedUnderItsSubkey, ComputeEdgeCases, ComputeChainsAllButTheLastBlock: messages of 16, 15 and 17 bytes
and the empty one. -/
theorem witness_message_lengths :
    (messageBytes 16 block1 ≠ [] ∧ (messageBytes 16 block1).length % 16 = 0) ∧
    (messageBytes 15 block1).length % 16 ≠ 0 ∧ ([] : List Byte) = [] ∧ [0x00#8] ≠ [] ∧
    (messageBytes 16 block1).length = 16 ∧ (messageBytes 16 block1 ++ [0x00#8]).length % 16 ≠ 0 := by decide

/-- KeyScheduleRecurrence's ranges, PartitionIntoBlocks' ranges. -/
theorem witness_ranges :
    (0 ≤ 3 ∧ 4 ≤ 5 ∧ 43 ≤ 43 ∧ 43 % 4 ≠ 0) ∧ (4 ≤ 4 ∧ 40 % 4 = 0 ∧ 4 ≤ 40 ∧ 40 ≤ 43) ∧
    (1 ≤ 1 ∧ 1 ≤ 15 ∧ 15 ≤ 15) := by decide

/-- CipherIsUsedUnderRawKeyOnly, AbsorbEvaluatesCipherAtMostOnce: two ciphers that differ, but not under the key of the
state; and a beat that just fits. -/
def otherCipher : Config := { encrypt := fun k b => if k = katKey then aes128 k b else b }

theorem witness_ciphers :
    (∀ b, Config.hardware.encrypt idle.key b = otherCipher.encrypt idle.key b) ∧
    otherCipher.encrypt 0#128 0#128 ≠ Config.hardware.encrypt 0#128 0#128 ∧
    (active 0#128 5).bufLen.val + (11#8).toNat ≤ 16 :=
  ⟨fun _ => rfl, by decide +kernel, by decide⟩

/-- BeatsDependOnTheirConcatenation, CommandsAgreeWithComputeForEveryCipher, PortRunDeliversReferenceTag,
CmacPseudoCommandComputesTag, MessageCostsOneEvaluationPerBlock, RunExecutesCommandsInOrder: beats of 0, 16 and 1 bytes
from a NOKEY state, and the host's samples that present them. -/
def sampleBeats : List (List Byte) := [[], messageBytes 16 block1, [0x00#8]]

def sampleCommands : List Instr := [.loadkey katKey, .init 0#128] ++ sampleBeats.map absorbBeat ++ [.final]

theorem witness_beats :
    (∀ d ∈ sampleBeats, d.length ≤ 16) ∧ State.reset.err = .none ∧ State.reset.ma = false ∧
    (∀ i ∈ sampleCommands, i.wellFormed = true) ∧
    ({ State.reset with inputs := sampleCommands.map (fun i => present (encode i)) ++ [] } : State).inputs
      = sampleCommands.map (fun i => present (encode i)) ++ [] := by
  refine ⟨by decide, rfl, rfl, by decide +kernel, rfl⟩

/-- EveryStepKeepsInvariants: a state in the middle of a message meets all eight, and a step from it answers. -/
theorem witness_invariants :
    Inv Config.hardware (active 0x61626300000000000000000000000000#128 3) ∧
    step (active 0x61626300000000000000000000000000#128 3)
      = .next (active 0x61626300000000000000000000000000#128 3) := by
  refine ⟨⟨by decide, by decide, ?_, fun _ => ⟨by decide +kernel, by decide +kernel⟩, by decide, by decide, by decide,
    by decide⟩, rfl⟩
  intro i h1 h2
  have h : ∀ j < 16, 3 ≤ j → byte (active 0x61626300000000000000000000000000#128 3).buf j = 0#8 := by decide +kernel
  exact h i (by omega) h1

/-- InvariantsHoldOfEveryReachableState: a run from reset that answers. -/
theorem witness_run :
    Host.Core.run Sys2Proof.core 2 { State.reset with inputs := [present (encode .nop), present reservedFirst] }
      = .next { State.reset with err := .illegalOpcode } := rfl

/-- DeadRegistersAreUnobservable: two IDLE states that differ in `CV` and `BUF`, and two NOKEY states that differ in
`KEY`, `K1` and `K2`. -/
theorem witness_dead_registers :
    SameForHost idle { idle with cv := 1#128, buf := 2#128 } ∧
    SameForHost .reset { State.reset with key := 1#128, k1 := 2#128, k2 := 3#128 } ∧
    step idle = .next idle := by
  refine ⟨?_, ?_, rfl⟩ <;> constructor <;> simp [idle]

end Sys2Proof.Machine.Tests
end

section
/-! SUPPORT. Rules the proofs of all families use: what a checked command keeps, the effect of a command as a function
of the cipher, the samples that accept no word, and the induction over a run. -/

namespace Sys2Proof.Machine

/-! ### A property of a checked command: what each check asks -/

/-- What holds of the state left alone and of the state when the check passes holds of the checked command. -/
theorem ignoreInFault_rule {P : State → Prop} {s t : State} (hs : s.err ≠ .none → P s) (ht : s.err = .none → P t) :
    P (ignoreInFault s t) := by
  obtain ⟨he, h⟩ | ⟨he, h⟩ := ignoreInFault_cases s t
  · rw [h]; exact hs he
  · rw [h]; exact ht he

theorem needKey_rule {P : State → Prop} {s t : State} (hs : s.kv = false → P (s.raise .noKey))
    (ht : s.kv = true → P t) : P (needKey s t) := by
  obtain ⟨hk, h⟩ | ⟨hk, h⟩ := needKey_cases s t
  · rw [h]; exact hs hk
  · rw [h]; exact ht hk

theorem needMessage_rule {P : State → Prop} {s t : State} (hs : s.ma = false → P (s.raise .sequence))
    (ht : s.ma = true → P t) : P (needMessage s t) := by
  obtain ⟨hm, h⟩ | ⟨hm, h⟩ := needMessage_cases s t
  · rw [h]; exact hs hm
  · rw [h]; exact ht hm

theorem needNoMessage_rule {P : State → Prop} {s t : State} (hs : s.ma = true → P (s.raise .sequence))
    (ht : s.ma = false → P t) : P (needNoMessage s t) := by
  obtain ⟨hm, h⟩ | ⟨hm, h⟩ := needNoMessage_cases s t
  · rw [h]; exact hs hm
  · rw [h]; exact ht hm

theorem needLength_rule {P : State → Prop} {len : Byte} {s t : State} (hs : 16 < len.toNat → P (s.raise .length))
    (ht : len.toNat ≤ 16 → P t) : P (needLength len s t) := by
  obtain ⟨hl, h⟩ | ⟨hl, h⟩ := needLength_cases len s t
  · rw [h]; exact hs hl
  · rw [h]; exact ht hl

/-! ### Commands, samples and runs -/

/-- `exec` is `commandEffect` for the hardware's cipher, and every command answers a next state (R195). -/
theorem exec_eq_commandEffect (i : Instr) (s : State) :
    exec i s = .next (commandEffect Config.hardware i s) := by
  cases i <;> rfl

/-- A sample with `rst` clears the core, with or without a command (R185). -/
theorem step_of_rst {s : State} {p : HostInput} {rest : List HostInput} (h : s.inputs = p :: rest)
    (hr : p.rst = true) : step s = .next { State.reset with inputs := rest } := by
  have hp : portEvent p = .reset := by simp [portEvent, hr]
  rw [step_cons h, hp]
  rfl

/-- A sample with neither `rst` nor a command is used up and changes no register (R65). -/
theorem step_of_idle {s : State} {p : HostInput} {rest : List HostInput} (h : s.inputs = p :: rest)
    (hr : p.rst = false) (hv : p.cmdValid = false) : step s = .next { s with inputs := rest } := by
  have hp : portEvent p = .idle := by simp [portEvent, hr, hv]
  rw [step_cons h, hp, handle_idle]

/-- Every step answers a next state: no word and no sample stops the core (R195). -/
theorem exists_step_next (s : State) : ∃ t, step s = .next t := by
  cases hi : s.inputs with
  | nil => exact ⟨s, step_nil hi⟩
  | cons p rest =>
    rw [step_cons hi]
    cases portEvent p with
    | idle => exact ⟨_, rfl⟩
    | reset => exact ⟨_, rfl⟩
    | command w =>
      rw [handle_command]
      cases hd : decode w with
      | ok i => exact ⟨_, (acceptWord_of_ok hd _).trans (exec_eq_commandEffect i _)⟩
      | error e => exact ⟨_, acceptWord_of_error hd _⟩

theorem run_succ_of_step {s u : State} (h : step s = .next u) (n : Nat) :
    Host.Core.run Sys2Proof.core (n + 1) s = Host.Core.run Sys2Proof.core n u := by
  simp only [Host.Core.run, Host.Check.core_step, h]

/-- What every step keeps, every run keeps. -/
theorem run_keeps {P : State → Prop} (hstep : ∀ s t, P s → step s = .next t → P t) (n : Nat) {s t : State}
    (hs : P s) (h : Host.Core.run Sys2Proof.core n s = .next t) : P t := by
  induction n generalizing s with
  | zero => injection h with h; exact h ▸ hs
  | succ n ih =>
    obtain ⟨u, hu⟩ := exists_step_next s
    rw [run_succ_of_step hu] at h
    exact ih (hstep s u hs hu) h

end Sys2Proof.Machine
end

section
/-! PROOFS of the family `10_state`: the reset state (R39), the phase (R34) and the port `dout` (R37). -/

namespace Sys2Proof.Machine

/-! ### The reset state -/

@[simp] theorem outputs_dout (s : State) : (outputs s).dout = s.dout := rfl
@[simp] theorem status_clear (s : State) : status s.clear = 0x0000#16 :=
  calc status s.clear = status State.reset := rfl
    _ = 0x0000#16 := by decide
@[simp] theorem phase_clear (s : State) : phase s.clear = .nokey := rfl

/-- The state after reset, and what CLR and a reset sample answer, is a cleared state. -/
theorem exists_clear_of_reset {t : State} (h : t = State.reset ∨ ∃ s : State, exec .clr s = .next t ∨
    ∃ p rest, s.inputs = p :: rest ∧ p.rst = true ∧ step s = .next t) : ∃ u : State, t = u.clear := by
  obtain rfl | ⟨s, hclr | ⟨p, rest, hi, hr, hstep⟩⟩ := h
  · exact ⟨.reset, rfl⟩
  · rw [exec_clr] at hclr
    injection hclr with hclr
    exact ⟨s, hclr.symm⟩
  · rw [step_of_rst hi hr] at hstep
    injection hstep with hstep
    exact ⟨{ s with inputs := rest }, hstep.symm⟩

/-- Settles O1: each of the three is a cleared state, whose registers, status and phase the laws of `clear` give. -/
theorem resetStateIsAllZero : Obligations.ResetStateIsAllZero := by
  intro t h
  obtain ⟨u, rfl⟩ := exists_clear_of_reset h
  simp

/-! ### The phase -/

/-- The four cases of R34, with the flags that decide each. -/
theorem phase_cases (s : State) :
    (s.err ≠ .none ∧ phase s = .fault) ∨
    (s.err = .none ∧ s.kv = false ∧ phase s = .nokey) ∨
    (s.err = .none ∧ s.kv = true ∧ s.ma = false ∧ phase s = .idle) ∨
    (s.err = .none ∧ s.kv = true ∧ s.ma = true ∧ phase s = .active) := by
  by_cases he : s.err = .none
  · cases hk : s.kv
    · simp [phase, he, hk]
    · cases hm : s.ma <;> simp [phase, he, hk, hm]
  · simp [phase, he]

/-- Settles O31: in each case of R34 the flags decide all four equivalences. -/
theorem phaseFollowsFlags : Obligations.PhaseFollowsFlags := by
  intro s
  obtain ⟨he, hp⟩ | ⟨he, hk, hp⟩ | ⟨he, hk, hm, hp⟩ | ⟨he, hk, hm, hp⟩ := phase_cases s
  · simp [he, hp]
  · simp [he, hk, hp]
  · simp [he, hk, hm, hp]
  · simp [he, hk, hm, hp]

/-! ### The result register -/

/-- What can happen to `DOUT` and `DV` from `s` to `t`: both stay, a result is delivered, or both are cleared. -/
def ResultStep (s t : State) : Prop :=
  (t.dout = s.dout ∧ t.dv = s.dv) ∨ t.dv = true ∨ (t.dout = 0#128 ∧ t.dv = false)

theorem ResultStep.refl (s : State) : ResultStep s s := .inl ⟨rfl, rfl⟩

theorem ResultStep.raise (s : State) (c : ErrCode) : ResultStep s (s.raise c) := .inl ⟨rfl, rfl⟩

theorem ResultStep.deliver (s : State) (v : Block) : ResultStep s (deliver v s) := .inr (.inl rfl)

theorem ResultStep.absorbBytes (cfg : Config) (s : State) (l : List Byte) : ResultStep s (absorbBytes cfg s l) := by
  obtain ⟨-, -, -, hdout, -, -, hdv, -, -⟩ := absorbBytes_frame cfg l s
  exact .inl ⟨hdout, hdv⟩

/-- The checks a keyed command makes first leave the result as it is. -/
theorem ResultStep.keyed {s t : State} (h : ResultStep s t) : ResultStep s (ignoreInFault s (needKey s t)) :=
  ignoreInFault_rule (fun _ => .refl s) fun _ => needKey_rule (fun _ => .raise s _) fun _ => h

/-- Of the commands, FINAL, ENC and the key reads deliver a result, CLR clears it, and the others leave it (R27, R30). -/
theorem commandEffect_resultStep (cfg : Config) (i : Instr) (s : State) : ResultStep s (commandEffect cfg i s) := by
  cases i with
  | nop => exact .refl s
  | loadkey key =>
    exact ignoreInFault_rule (fun _ => .refl s) fun _ =>
      needNoMessage_rule (fun _ => .raise s _) fun _ => .inl ⟨rfl, rfl⟩
  | init iv => exact .keyed (.inl ⟨rfl, rfl⟩)
  | absorb len data =>
    exact .keyed (needMessage_rule (fun _ => .raise s _) fun _ =>
      needLength_rule (fun _ => .raise s _) fun _ => .absorbBytes cfg s _)
  | final => exact .keyed (needMessage_rule (fun _ => .raise s _) fun _ => .inr (.inl rfl))
  | enc block => exact .keyed (.deliver s _)
  | rdkey => exact .keyed (.deliver s _)
  | rdk1 => exact .keyed (.deliver s _)
  | rdk2 => exact .keyed (.deliver s _)
  | clr => exact .inr (.inr ⟨rfl, rfl⟩)

theorem step_resultStep {s t : State} (h : step s = .next t) : ResultStep s t := by
  obtain ⟨-, rfl⟩ | ⟨p, rest, -, ⟨-, rfl⟩ | ⟨-, rfl⟩ | ⟨w, i, -, -, hexec⟩ | ⟨w, e, -, -, hres⟩⟩ := step_cases h
  · exact .refl t
  · exact .inl ⟨rfl, rfl⟩
  · exact .inr (.inr ⟨rfl, rfl⟩)
  · rw [exec_eq_commandEffect] at hexec
    injection hexec with hexec
    exact hexec ▸ commandEffect_resultStep Config.hardware i { s with inputs := rest }
  · injection hres with hres
    exact hres ▸ ignoreInFault_rule (P := ResultStep s) (fun _ => .inl ⟨rfl, rfl⟩) fun _ => .inl ⟨rfl, rfl⟩

/-- `DOUT` is zero as long as no result has been delivered (R37). -/
def NoDataZero (s : State) : Prop := s.dv = false → s.dout = 0#128

theorem NoDataZero.of_resultStep {s t : State} (hs : NoDataZero s) (h : ResultStep s t) : NoDataZero t := by
  intro hdv
  obtain ⟨hdout, hsame⟩ | hset | ⟨hzero, -⟩ := h
  · exact hdout ▸ hs (hsame ▸ hdv)
  · simp [hset] at hdv
  · exact hzero

theorem step_keeps_noDataZero (s t : State) (hs : NoDataZero s) (h : step s = .next t) : NoDataZero t :=
  hs.of_resultStep (step_resultStep h)

/-- Settles O57: the port is the register; that `DOUT` is zero while `DV = 0` holds at reset and every step keeps it, so
it holds along every run; and an idle sample changes no register, so neither port. -/
theorem doutPortShowsResultRegister : Obligations.DoutPortShowsResultRegister := by
  refine ⟨fun s => ⟨rfl, rfl⟩, fun n driven t hrun => ?_, fun s t hs hstep => ?_,
    fun s t p rest hi hr hv hstep => ?_⟩
  · have hreset : NoDataZero { State.reset with inputs := driven } := fun _ => rfl
    exact run_keeps step_keeps_noDataZero n hreset hrun
  · exact step_keeps_noDataZero s t hs hstep
  · rw [step_of_idle hi hr hv] at hstep
    injection hstep with hstep
    subst hstep
    exact ⟨rfl, rfl⟩

end Sys2Proof.Machine
end

section
/-! SUPPORT. What a host that presents commands relies on: the decoder reads a canonical word back, and no command reads
or writes the samples still to come. -/

namespace Sys2Proof.Machine

/-! ### The word of a canonical command -/

/-- Only ABSORB has bits the decoder changes, and in a canonical ABSORB they are zero already (R75, R80). -/
theorem decode_encode {i : Instr} (h : i.wellFormed = true) : decode (encode i) = .ok i := by
  cases i with
  | absorb len data => simp [encode, opcode, decode, keepBytes_of_canonical h]
  | _ => simp [encode, opcode, decode]

/-! ### Commands and the samples still to come -/

/-- The state with other samples to come (log entry 2), the registers as they are. -/
def State.withInputs (s : State) (r : List HostInput) : State := { s with inputs := r }

section
variable (s t : State) (r : List HostInput)

@[simp] theorem withInputs_key : (s.withInputs r).key = s.key := rfl
@[simp] theorem withInputs_k1 : (s.withInputs r).k1 = s.k1 := rfl
@[simp] theorem withInputs_k2 : (s.withInputs r).k2 = s.k2 := rfl
@[simp] theorem withInputs_cv : (s.withInputs r).cv = s.cv := rfl

@[simp] theorem clear_withInputs : (s.withInputs r).clear = s.clear.withInputs r := rfl
@[simp] theorem storeKey_withInputs (km : KeyMaterial) :
    storeKey km (s.withInputs r) = (storeKey km s).withInputs r := rfl
@[simp] theorem deliver_withInputs (v : Block) : deliver v (s.withInputs r) = (deliver v s).withInputs r := rfl
@[simp] theorem beginMessage_withInputs (iv : Block) :
    beginMessage iv (s.withInputs r) = (beginMessage iv s).withInputs r := rfl
@[simp] theorem endMessage_withInputs (tag : Block) :
    endMessage tag (s.withInputs r) = (endMessage tag s).withInputs r := rfl
@[simp] theorem finalBlock_withInputs : finalBlock (s.withInputs r) = finalBlock s := rfl

@[simp] theorem ignoreInFault_withInputs :
    ignoreInFault (s.withInputs r) (t.withInputs r) = (ignoreInFault s t).withInputs r :=
  (apply_ite (State.withInputs · r) (s.err = .none) t s).symm

@[simp] theorem needKey_withInputs :
    needKey (s.withInputs r) (t.withInputs r) = (needKey s t).withInputs r :=
  (apply_ite (State.withInputs · r) (s.kv = true) t (s.raise .noKey)).symm

@[simp] theorem needMessage_withInputs :
    needMessage (s.withInputs r) (t.withInputs r) = (needMessage s t).withInputs r :=
  (apply_ite (State.withInputs · r) (s.ma = true) t (s.raise .sequence)).symm

@[simp] theorem needNoMessage_withInputs :
    needNoMessage (s.withInputs r) (t.withInputs r) = (needNoMessage s t).withInputs r :=
  (apply_ite (State.withInputs · r) (s.ma = true) (s.raise .sequence) t).symm

@[simp] theorem needLength_withInputs (len : Byte) :
    needLength len (s.withInputs r) (t.withInputs r) = (needLength len s t).withInputs r :=
  (apply_ite (State.withInputs · r) (len.toNat ≤ 16) t (s.raise .length)).symm

@[simp] theorem absorbByte_withInputs (cfg : Config) (b : Byte) :
    absorbByte cfg (s.withInputs r) b = (absorbByte cfg s b).withInputs r := by
  by_cases h : s.bufLen = 16
  · rw [absorbByte_full cfg b h, absorbByte_full cfg b (s := s.withInputs r) h]
    rfl
  · rw [absorbByte_room cfg b h, absorbByte_room cfg b (s := s.withInputs r) h]
    rfl

@[simp] theorem absorbBytes_withInputs (cfg : Config) (l : List Byte) :
    absorbBytes cfg (s.withInputs r) l = (absorbBytes cfg s l).withInputs r := by
  induction l generalizing s with
  | nil => rfl
  | cons b l ih => rw [absorbBytes_cons, absorbBytes_cons, absorbByte_withInputs, ih]

/-- A command does to the registers the same whatever the host drives later, and leaves that as it is: its word is all it
is told from outside (R62). -/
theorem commandEffect_withInputs (cfg : Config) (i : Instr) :
    commandEffect cfg i (s.withInputs r) = (commandEffect cfg i s).withInputs r := by
  cases i with
  | nop => rfl
  | loadkey key => simp [commandEffect, loadkey]
  | init iv => simp [commandEffect, init]
  | absorb len data => simp [commandEffect, absorb]
  | final => simp [commandEffect, final]
  | enc block => simp [commandEffect, enc]
  | rdkey => simp [commandEffect, rdkey]
  | rdk1 => simp [commandEffect, rdk1]
  | rdk2 => simp [commandEffect, rdk2]
  | clr => rfl

end

/-! ### Commands one after another -/

/-- A sample that presents a canonical command executes it and is used up (R62, R65). -/
theorem step_of_present {s : State} {i : Instr} {rest : List HostInput} (hwf : i.wellFormed = true)
    (h : s.inputs = present (encode i) :: rest) :
    step s = .next ((commandEffect Config.hardware i s).withInputs rest) := by
  rw [step_cons h, portEvent_present, handle_command, acceptWord_of_ok (decode_encode hwf), exec_eq_commandEffect]
  exact congrArg _ (commandEffect_withInputs s rest Config.hardware i)

theorem execAll_cons (i : Instr) (l : List Instr) (s : State) :
    execAll (i :: l) s = execAll l (commandEffect Config.hardware i s) := by
  rw [execAll, exec_eq_commandEffect]

end Sys2Proof.Machine
end

section
/-! PROOFS of the family `20_memory`: the ordering of commands (R60). -/

namespace Sys2Proof.Machine

/-- Settles O52, by induction on the commands: a step executes the first one and uses up its sample, and the registers it
leaves do not depend on the samples still to come. -/
theorem runExecutesCommandsInOrder : Obligations.RunExecutesCommandsInOrder := by
  intro commands rest s hwf hs
  induction commands generalizing s with
  | nil =>
    obtain rfl : s.inputs = rest := hs
    rfl
  | cons i commands ih =>
    obtain ⟨hi, hcommands⟩ := List.forall_mem_cons.mp hwf
    have hrest := ih ((commandEffect Config.hardware i s).withInputs
      (commands.map (fun i => present (encode i)) ++ rest)) hcommands rfl
    rw [List.length_cons, run_succ_of_step (step_of_present hi hs), execAll_cons]
    exact hrest.trans (congrArg (execAll commands) (commandEffect_withInputs s rest Config.hardware i).symm)

end Sys2Proof.Machine
end

section
/-! PROOFS of the family `30_encoding`: the frame of a word (R72) and the reserved opcodes (R76). -/

namespace Sys2Proof.Machine

/-! ### The frame of a word -/

/-- Byte `i` of a word's data travels as byte `i + 2` of its frame. -/
theorem byte_cmdData (w : CmdWord) {i : Nat} (h : i < 16) :
    byte (cmdData w) i = w.extractLsb' (136 - 8 * (i + 2)) 8 := by
  have hoff : 136 - 8 * (i + 2) = 120 - 8 * i := by omega
  have hin : 120 - 8 * i + 8 ≤ 128 := by omega
  rw [hoff, byte, cmdData, BitVec.extractLsb'_extractLsb'_of_le hin]

theorem frameOfWord_eq_fields (w : CmdWord) :
    frameOfWord w = cmdOp w :: cmdLen w :: messageBytes 16 (cmdData w) := by
  have hrange : List.range 18 = 0 :: 1 :: (List.range 16).map (· + 2) := by decide
  rw [frameOfWord, hrange, List.map_cons, List.map_cons, List.map_map, messageBytes]
  refine congrArg (cmdOp w :: cmdLen w :: ·) (List.map_congr_left fun i hi => ?_)
  exact (byte_cmdData w (List.mem_range.mp hi)).symm

/-- A byte of the word shifted in below the bytes above it. -/
theorem shiftIn_byte (w : CmdWord) (k : Nat) :
    ((w >>> (k + 8)) <<< 8) ||| (w.extractLsb' k 8).setWidth 144 = w >>> k := by
  apply BitVec.eq_of_getLsbD_eq
  intro j hj
  by_cases hlow : j < 8
  · simp [hj, hlow]
  · have hoff : k + 8 + (j - 8) = k + j := by omega
    simp [hj, hlow, hoff]

/-- Reading the first `n` bytes of a frame gives the top `8 * n` bits of the word. -/
theorem wordOfFrame_prefix (w : CmdWord) (n : Nat) (h : n ≤ 18) :
    wordOfFrame ((List.range n).map fun i => w.extractLsb' (136 - 8 * i) 8) = w >>> (144 - 8 * n) := by
  induction n with
  | zero => exact (BitVec.ushiftRight_eq_zero (Nat.le_refl 144)).symm
  | succ n ih =>
    have habove : 144 - 8 * n = 136 - 8 * n + 8 := by omega
    have hbelow : 144 - 8 * (n + 1) = 136 - 8 * n := by omega
    have hread := ih (by omega)
    rw [wordOfFrame, habove] at hread
    rw [wordOfFrame, List.range_succ, List.map_append, List.foldl_append, hread, hbelow]
    exact shiftIn_byte w (136 - 8 * n)

/-- Reading the frame of a word gives the word back (R72). -/
theorem wordOfFrame_frameOfWord (w : CmdWord) : wordOfFrame (frameOfWord w) = w :=
  wordOfFrame_prefix w 18 (Nat.le_refl 18)

/-- Settles O11: the frame is its fields, whose bytes are counted, and reading it back shifts the bytes in again; the
rule's example is computed. -/
theorem frameIsMostSignificantByteFirst : Obligations.FrameIsMostSignificantByteFirst := by
  refine ⟨fun w => ⟨frameOfWord_eq_fields w, ?_, wordOfFrame_frameOfWord w⟩, by decide⟩
  rw [frameOfWord, List.length_map, List.length_range]

/-! ### The reserved opcodes -/

/-- A word with one of the opcodes `0x0A` to `0xFF` is none of R74's ten commands. -/
theorem decode_of_reserved {w : CmdWord} (h : 0x0A ≤ (cmdOp w).toNat) :
    decode w = .error (.illegalOpcode (cmdOp w)) := by
  have hne : ∀ c : Byte, c.toNat < 0x0A → cmdOp w ≠ c := by
    rintro c hc rfl
    omega
  simp [decode, hne]

/-- A word presented without `rst` is accepted (R65). -/
theorem portEvent_of_valid {p : HostInput} (hr : p.rst = false) (hv : p.cmdValid = true) :
    portEvent p = .command p.cmd := by
  simp [portEvent, hr, hv]

/-- Settles O5: the word is accepted and decodes to no command, and the answer to a reserved opcode is ILLEGAL_OPCODE
behind the lock of FAULT. -/
theorem reservedOpcodeRaisesIllegalOpcode : Obligations.ReservedOpcodeRaisesIllegalOpcode := by
  intro s p rest hi hr hv hop
  rw [step_cons hi, portEvent_of_valid hr hv, handle_command, acceptWord_of_error (decode_of_reserved hop)]
  rfl

end Sys2Proof.Machine
end

section
/-! PROOFS of the family `40_blockcipher`: the command ENC (R102). -/

namespace Sys2Proof.Machine

/-! ### The two checks of a command that needs a key -/

theorem keyed_of_noKey {s t : State} (he : s.err = .none) (hk : s.kv = false) :
    ignoreInFault s (needKey s t) = s.raise .noKey :=
  (ignoreInFault_of_none he).trans (needKey_of_noKey hk)

theorem keyed_of_key {s t : State} (he : s.err = .none) (hk : s.kv = true) :
    ignoreInFault s (needKey s t) = t :=
  (ignoreInFault_of_none he).trans (needKey_of_key hk)

/-! ### ENC -/

theorem decode_of_op_enc {w : CmdWord} (h : cmdOp w = 0x05#8) : decode w = .ok (.enc (cmdData w)) := by
  simp [decode, h]

section
variable (cfg : Config) (b : Block) {s : State}

theorem enc_of_fault (he : s.err ≠ .none) : enc cfg b s = s := ignoreInFault_of_fault he

theorem enc_of_noKey (he : s.err = .none) (hk : s.kv = false) : enc cfg b s = s.raise .noKey :=
  keyed_of_noKey he hk

/-- `MA` is not asked: ENC delivers in the middle of a message too (R102). -/
theorem enc_of_key (he : s.err = .none) (hk : s.kv = true) : enc cfg b s = deliver (cfg.encrypt s.key b) s :=
  keyed_of_key he hk

end

/-- Settles O21: R102's two checks leave three cases, and in the last the delivery of the hardware's cipher is the
only write. -/
theorem encEncryptsUnderKey : Obligations.EncEncryptsUnderKey := by
  refine ⟨fun w => decode_of_op_enc, fun b s => ⟨fun he => ?_, fun he hk => ?_, fun he hk => ?_⟩⟩
  · rw [exec_enc, enc_of_fault _ _ he]
  · rw [exec_enc, enc_of_noKey _ _ he hk, State.raise]
  · rw [exec_enc, enc_of_key _ _ he hk, deliver, Config.hardware]

end Sys2Proof.Machine
end

section
/-! PROOFS of the family `41_subkey`: `dbl` (R110), `New` (R111), LOADKEY (R113), the key reads (R114 to R116) and what
writes the KeyMaterial (R117). -/

namespace Sys2Proof.Machine

/-! ### `dbl` and `New` -/

theorem dbl_of_msb_false {x : Block} (h : x.msb = false) : dbl x = x <<< 1 := by simp [dbl, h]

theorem dbl_of_msb_true {x : Block} (h : x.msb = true) : dbl x = (x <<< 1) ^^^ rb := by simp [dbl, h]

theorem dbl_eq_ite_getLsbD (x : Block) : dbl x = if x.getLsbD 127 then (x <<< 1) ^^^ 0x87#128 else x <<< 1 := by
  rw [dbl, BitVec.msb_eq_getLsbD_last, rb]

/-- A shift by one doubles the integer and drops the carry out of bit 127. -/
theorem toNat_shiftLeft_one (x : Block) : (x <<< 1).toNat = (x.toNat * 2) % 2 ^ 128 := by
  rw [BitVec.toNat_shiftLeft, Nat.shiftLeft_eq, Nat.pow_one]

theorem toNat_dbl (x : Block) : (dbl x).toNat =
    if x.toNat < 2 ^ 127 then (x.toNat * 2) % 2 ^ 128 else ((x.toNat * 2) % 2 ^ 128) ^^^ 0x87 := by
  by_cases h : x.toNat < 2 ^ 127
  · have hmsb : x.msb = false := BitVec.msb_eq_false_iff_two_mul_lt.mpr (by omega)
    rw [if_pos h, dbl_of_msb_false hmsb, toNat_shiftLeft_one]
  · have hmsb : x.msb = true := BitVec.msb_eq_true_iff_two_mul_ge.mpr (by omega)
    rw [if_neg h, dbl_of_msb_true hmsb, BitVec.toNat_xor, toNat_shiftLeft_one]
    rfl

/-- Settles O33: the top bit says whether the integer reaches `2 ^ 127`; the five corner cases are computed. -/
theorem dblIsShiftWithConditionalRb : Obligations.DblIsShiftWithConditionalRb :=
  ⟨toNat_dbl, by decide⟩

/-- Settles O35: each subkey is `dbl` of the Block before it, which asks that Block's top bit. -/
theorem newDerivesSubkeysFromL : Obligations.NewDerivesSubkeysFromL :=
  fun _ _ => ⟨rfl, dbl_eq_ite_getLsbD _, dbl_eq_ite_getLsbD _⟩

/-! ### LOADKEY -/

theorem decode_of_op_loadkey {w : CmdWord} (h : cmdOp w = 0x01#8) : decode w = .ok (.loadkey (cmdData w)) := by
  simp [decode, h]

section
variable (cfg : Config) (k : Block) {s : State}

theorem loadkey_of_fault (he : s.err ≠ .none) : loadkey cfg k s = s := ignoreInFault_of_fault he

theorem loadkey_of_active (he : s.err = .none) (hm : s.ma = true) : loadkey cfg k s = s.raise .sequence :=
  (ignoreInFault_of_none he).trans (needNoMessage_of_active hm)

/-- `KV` is not asked: LOADKEY is legal in NOKEY and in IDLE (R113). -/
theorem loadkey_of_inactive (he : s.err = .none) (hm : s.ma = false) :
    loadkey cfg k s = storeKey (newKeyMaterial cfg k) s :=
  (ignoreInFault_of_none he).trans (needNoMessage_of_inactive hm)

end

/-- Settles O15: R113's two checks leave three cases, and in the last the KeyMaterial of the hardware's cipher is
the only write. -/
theorem loadkeyConstructsKeyMaterial : Obligations.LoadkeyConstructsKeyMaterial := by
  refine ⟨fun w => decode_of_op_loadkey, fun k s => ⟨fun he => ?_, fun he hm => ?_, fun he hm => ?_⟩⟩
  · rw [exec_loadkey, loadkey_of_fault _ _ he]
  · rw [exec_loadkey, loadkey_of_active _ _ he hm, State.raise]
  · rw [exec_loadkey, loadkey_of_inactive _ _ he hm, storeKey, newKeyMaterial, Config.hardware]

/-! ### RDKEY, RDK1 and RDK2 -/

theorem decode_of_op_rdkey {w : CmdWord} (h : cmdOp w = 0x06#8) : decode w = .ok .rdkey := by simp [decode, h]

theorem decode_of_op_rdk1 {w : CmdWord} (h : cmdOp w = 0x07#8) : decode w = .ok .rdk1 := by simp [decode, h]

theorem decode_of_op_rdk2 {w : CmdWord} (h : cmdOp w = 0x08#8) : decode w = .ok .rdk2 := by simp [decode, h]

/-- Settles O22: the three reads make the same two checks, which leave three cases, and in the last each delivers its
register. -/
theorem keyReadsDeliverTheirRegister : Obligations.KeyReadsDeliverTheirRegister := by
  refine ⟨fun w => ⟨decode_of_op_rdkey, decode_of_op_rdk1, decode_of_op_rdk2⟩, fun s => ?_⟩
  rw [exec_rdkey, exec_rdk1, exec_rdk2, rdkey, rdk1, rdk2]
  refine ⟨fun he => ?_, fun he hk => ?_, fun he hk => ?_⟩
  · simp only [ignoreInFault_of_fault he, and_self]
  · simp only [keyed_of_noKey he hk, State.raise, and_self]
  · simp only [keyed_of_key he hk, deliver, and_self]

/-! ### What writes the KeyMaterial -/

/-- The KeyMaterial and its flag are the same in `t` as in `s`. -/
def KeyKept (s t : State) : Prop := t.key = s.key ∧ t.k1 = s.k1 ∧ t.k2 = s.k2 ∧ t.kv = s.kv

theorem KeyKept.refl (s : State) : KeyKept s s := ⟨rfl, rfl, rfl, rfl⟩

theorem KeyKept.raise (s : State) (c : ErrCode) : KeyKept s (s.raise c) := ⟨rfl, rfl, rfl, rfl⟩

theorem KeyKept.deliver (s : State) (v : Block) : KeyKept s (deliver v s) := ⟨rfl, rfl, rfl, rfl⟩

theorem KeyKept.absorbBytes (cfg : Config) (s : State) (l : List Byte) : KeyKept s (absorbBytes cfg s l) := by
  obtain ⟨hkey, hk1, hk2, -, hkv, -, -, -, -⟩ := absorbBytes_frame cfg l s
  exact ⟨hkey, hk1, hk2, hkv⟩

/-- The checks a keyed command makes first leave the KeyMaterial as it is. -/
theorem KeyKept.keyed {s t : State} (h : KeyKept s t) : KeyKept s (ignoreInFault s (needKey s t)) :=
  ignoreInFault_rule (fun _ => .refl s) fun _ => needKey_rule (fun _ => .raise s _) fun _ => h

/-- LOADKEY keeps the KeyMaterial, or no message is in progress and it stores a new one. -/
theorem loadkey_cases (cfg : Config) (k : Block) (s : State) :
    KeyKept s (loadkey cfg k s) ∨ (s.ma = false ∧ loadkey cfg k s = storeKey (newKeyMaterial cfg k) s) := by
  by_cases he : s.err = .none
  · cases hm : s.ma with
    | true => rw [loadkey_of_active cfg k he hm]; exact .inl (.raise s _)
    | false => exact .inr ⟨rfl, loadkey_of_inactive cfg k he hm⟩
  · rw [loadkey_of_fault cfg k he]; exact .inl (.refl s)

/-- What a command can do to the KeyMaterial: keep it, or, as CLR, clear it, or, as LOADKEY with no message in progress,
store a new one (R117). -/
theorem commandEffect_key_cases (cfg : Config) (i : Instr) (s : State) :
    KeyKept s (commandEffect cfg i s) ∨ i = .clr ∨
    ∃ k, i = .loadkey k ∧ s.ma = false ∧ loadkey cfg k s = storeKey (newKeyMaterial cfg k) s := by
  cases i with
  | nop => exact .inl (.refl s)
  | loadkey key =>
    obtain hkept | hstore := loadkey_cases cfg key s
    · exact .inl hkept
    · exact .inr (.inr ⟨key, rfl, hstore⟩)
  | init iv => exact .inl (.keyed ⟨rfl, rfl, rfl, rfl⟩)
  | absorb len data =>
    exact .inl (.keyed (needMessage_rule (fun _ => .raise s _) fun _ =>
      needLength_rule (fun _ => .raise s _) fun _ => .absorbBytes cfg s _))
  | final => exact .inl (.keyed (needMessage_rule (fun _ => .raise s _) fun _ => ⟨rfl, rfl, rfl, rfl⟩))
  | enc block => exact .inl (.keyed (.deliver s _))
  | rdkey => exact .inl (.keyed (.deliver s _))
  | rdk1 => exact .inl (.keyed (.deliver s _))
  | rdk2 => exact .inl (.keyed (.deliver s _))
  | clr => exact .inr (.inl rfl)

theorem execReserved_keyKept {s t : State} (h : execReserved s = .next t) : KeyKept s t := by
  injection h with h
  exact h ▸ ignoreInFault_rule (fun _ => .refl s) fun _ => .raise s _

/-! ### The sample and the word behind a step -/

theorem rst_of_portEvent_reset {p : HostInput} (h : portEvent p = .reset) : p.rst = true := by
  cases hr : p.rst
  · cases hv : p.cmdValid <;> simp [portEvent, hr, hv] at h
  · rfl

theorem of_portEvent_command {p : HostInput} {w : CmdWord} (h : portEvent p = .command w) :
    p.rst = false ∧ p.cmdValid = true ∧ p.cmd = w := by
  cases hr : p.rst
  · cases hv : p.cmdValid
    · simp [portEvent, hr, hv] at h
    · rw [portEvent_of_valid hr hv] at h
      injection h with h
      exact ⟨rfl, rfl, h⟩
  · simp [portEvent, hr] at h

/-- A word that decodes has the opcode of its command (R74). -/
theorem cmdOp_of_decode {w : CmdWord} {i : Instr} (h : decode w = .ok i) : cmdOp w = opcode i := by
  unfold decode at h
  split_ifs at h <;> (injection h with h; subst h; assumption)

theorem cmdData_of_decode_loadkey {w : CmdWord} {k : Block} (h : decode w = .ok (.loadkey k)) : cmdData w = k := by
  have hop : cmdOp w = 0x01#8 := cmdOp_of_decode h
  exact Instr.loadkey.inj (Except.ok.inj ((decode_of_op_loadkey hop).symm.trans h))

/-- Settles O28: a command keeps the KeyMaterial unless it is CLR or LOADKEY; a step does nothing, is a reset, executes
a command, whose opcode its word has, or answers a reserved opcode. -/
theorem keyMaterialIsImmutable : Obligations.KeyMaterialIsImmutable := by
  refine ⟨fun i s t h hclr hload => ?_, fun s t h => ?_⟩
  · rw [exec_eq_commandEffect] at h
    injection h with h
    subst h
    obtain hkept | rfl | ⟨k, rfl, -⟩ := commandEffect_key_cases Config.hardware i s
    · exact hkept
    · exact absurd rfl hclr
    · exact absurd rfl (hload k)
  · obtain ⟨-, rfl⟩ | ⟨p, rest, hi, hstep⟩ := step_cases h
    · exact .inl (KeyKept.refl t)
    have hhead : s.inputs.head? = some p := hi ▸ rfl
    obtain ⟨-, rfl⟩ | ⟨hp, rfl⟩ | ⟨w, i, hp, hd, hexec⟩ | ⟨w, e, -, -, hres⟩ := hstep
    · exact .inl (KeyKept.refl s)
    · exact .inr (.inl ⟨rfl, rfl, rfl, rfl, p, hhead, .inl (rst_of_portEvent_reset hp)⟩)
    · obtain ⟨hr, hv, rfl⟩ := of_portEvent_command hp
      rw [exec_eq_commandEffect] at hexec
      injection hexec with hexec
      subst hexec
      have hop := cmdOp_of_decode hd
      obtain hkept | rfl | ⟨k, rfl, hm, hstore⟩ :=
        commandEffect_key_cases Config.hardware i { s with inputs := rest }
      · exact .inl hkept
      · exact .inr (.inl ⟨rfl, rfl, rfl, rfl, p, hhead, .inr ⟨hv, hop⟩⟩)
      · rw [commandEffect, hstore]
        exact .inr (.inr ⟨hm, rfl, rfl, rfl, p, hhead, hr, hv, hop, (cmdData_of_decode_loadkey hd).symm⟩)
    · have hkept := execReserved_keyKept hres
      exact .inl hkept

end Sys2Proof.Machine
end

section
/-! PROOFS of the family `42_cmac`: the reference function `Compute` (R125 to R130), INIT (R132) and ABSORB (R133,
R134). -/

namespace Sys2Proof.Machine

/-! ### The byte step -/

/-- Bytes of `BUF` at and beyond `BUFLEN` are zero, as invariant I3 of R35 has them. -/
def ZeroBeyondBufLen (s : State) : Prop := ∀ i, s.bufLen.val ≤ i → i ≤ 15 → byte s.buf i = 0#8

theorem zeroBeyondBufLen_chainBlock (cfg : Config) (s : State) : ZeroBeyondBufLen (chainBlock cfg s) :=
  fun i _ _ => byte_zero i

theorem bufLen_lt_of_ne {s : State} (h : s.bufLen ≠ 16) : s.bufLen.val < 16 :=
  Fin.val_lt_last h

theorem putByte_bufLen_val (b : Byte) {s : State} (h : s.bufLen.val < 16) :
    (putByte b s).bufLen.val = s.bufLen.val + 1 :=
  Fin.val_add_one_of_lt h

/-- The byte put into the buffer is the first beyond `BUFLEN`, so those beyond the new count were not touched. -/
theorem ZeroBeyondBufLen.putByte {s : State} (hs : ZeroBeyondBufLen s) (b : Byte) (h : s.bufLen.val < 16) :
    ZeroBeyondBufLen (putByte b s) := by
  intro i hi hi15
  rw [putByte_bufLen_val b h] at hi
  rw [putByte_buf, byte_setByte _ _ _ _ (by omega), if_neg (by omega)]
  exact hs i (by omega) hi15

theorem ZeroBeyondBufLen.absorbByte {s : State} (hs : ZeroBeyondBufLen s) (cfg : Config) (b : Byte) :
    ZeroBeyondBufLen (absorbByte cfg s b) := by
  by_cases h : s.bufLen = 16
  · rw [absorbByte_full cfg b h]
    exact (zeroBeyondBufLen_chainBlock cfg s).putByte b (by simp)
  · rw [absorbByte_room cfg b h]
    exact hs.putByte b (bufLen_lt_of_ne h)

theorem one_le_absorbByte_bufLen (cfg : Config) (s : State) (b : Byte) : 1 ≤ (absorbByte cfg s b).bufLen.val := by
  rw [absorbByte_bufLen]
  split <;> omega

/-- Settles O17: a full buffer is chained and then has room, one with room is not full; in both the byte is put at
`BUFLEN`. -/
theorem absorbByteChainsLate : Obligations.AbsorbByteChainsLate := by
  intro cfg s b
  refine ⟨fun h => ?_, fun h => ?_, one_le_absorbByte_bufLen cfg s b, fun hs => ZeroBeyondBufLen.absorbByte hs cfg b⟩
  · rw [absorbByte_full cfg b h]
    rfl
  · have hroom : s.bufLen ≠ 16 := fun e => absurd (congrArg Fin.val e) (Nat.ne_of_lt h)
    have hlen : s.bufLen + 1 = ⟨s.bufLen.val + 1, Nat.succ_lt_succ h⟩ := Fin.ext (putByte_bufLen_val b h)
    rw [absorbByte_room cfg b hroom, putByte, hlen]

/-! ### The partition of a message (R126) -/

theorem lastIsComplete_iff (m : Nat) : lastIsComplete m = true ↔ 0 < m ∧ m % 16 = 0 := by
  simp [lastIsComplete]

theorem lastIsComplete_eq_false {m : Nat} (h : m = 0 ∨ m % 16 ≠ 0) : lastIsComplete m = false := by
  rw [Bool.eq_false_iff, ne_eq, lastIsComplete_iff]
  omega

theorem blockCount_of_complete {m : Nat} (h0 : 0 < m) (h : m % 16 = 0) : blockCount m = m / 16 := by
  rw [blockCount, if_neg (by omega)]
  omega

theorem blockCount_of_incomplete {m : Nat} (h : m = 0 ∨ m % 16 ≠ 0) : blockCount m = m / 16 + 1 := by
  rw [blockCount]
  split <;> omega

/-- Settles O36: the length says whether the last block is complete, and that says whether it counts beyond the
sixteens in the length. -/
theorem partitionIntoBlocks : Obligations.PartitionIntoBlocks := by
  refine ⟨⟨blockCount_of_incomplete (.inl rfl), lastIsComplete_eq_false (.inl rfl)⟩, fun q hq => ⟨?_, ?_⟩,
    fun q r hr hr15 => ⟨?_, lastIsComplete_eq_false (.inr (by omega))⟩⟩
  · rw [blockCount_of_complete (by omega) (by omega)]
    omega
  · exact (lastIsComplete_iff _).mpr (by omega)
  · rw [blockCount_of_incomplete (.inr (by omega))]
    omega

/-! ### The last block (R127) -/

/-- The last block chosen by the rule's own condition instead of the flag computed from the length (R125, R126). -/
theorem lastBlock_eq_ite (km : KeyMaterial) (m : List Byte) :
    lastBlock km m =
      if 0 < m.length ∧ m.length % 16 = 0 then
        blockOfBytes (m.drop (16 * (blockCount m.length - 1))) ^^^ km.subkey1
      else pad (blockOfBytes (m.drop (16 * (blockCount m.length - 1))))
        (m.drop (16 * (blockCount m.length - 1))).length ^^^ km.subkey2 :=
  if_congr (lastIsComplete_iff _) rfl rfl

section
variable (km : KeyMaterial) {m : List Byte}

theorem lastBlock_of_complete (hne : m ≠ []) (h : m.length % 16 = 0) :
    lastBlock km m = blockOfBytes (m.drop (m.length - 16)) ^^^ km.subkey1 := by
  have hpos : 0 < m.length := List.length_pos_iff.mpr hne
  have hstart : 16 * (m.length / 16 - 1) = m.length - 16 := by omega
  rw [lastBlock_eq_ite, if_pos ⟨hpos, h⟩, blockCount_of_complete hpos h, hstart]

theorem lastBlock_of_incomplete (h : m = [] ∨ m.length % 16 ≠ 0) :
    lastBlock km m =
      pad (blockOfBytes (m.drop (m.length - m.length % 16))) (m.length % 16) ^^^ km.subkey2 := by
  have hlen : m.length = 0 ∨ m.length % 16 ≠ 0 := h.imp_left List.length_eq_zero_iff.mpr
  have hstart : 16 * (m.length / 16 + 1 - 1) = m.length - m.length % 16 := by omega
  have htail : m.length - (m.length - m.length % 16) = m.length % 16 := by omega
  rw [lastBlock_eq_ite, if_neg (by omega), blockCount_of_incomplete hlen, hstart, List.length_drop, htail]

end

theorem byte_blockOfBytes_drop (m : List Byte) (n : Nat) {i : Nat} (hi : i < 16) :
    byte (blockOfBytes (m.drop n)) i = m.getD (n + i) 0#8 := by
  rw [byte_blockOfBytes _ _ hi, List.getD_eq_getElem?_getD, List.getD_eq_getElem?_getD, List.getElem?_drop]

/-- Settles O37: the subkey cancels, and what is left is the message from the start of its last block on, as it stands
or padded. -/
theorem lastBlockIsPaddedUnderItsSubkey : Obligations.LastBlockIsPaddedUnderItsSubkey := by
  refine ⟨fun buf t i _ hi => byte_pad buf t i (by omega), fun km m i hi hne h => ?_, fun km m i hi h => ?_⟩
  · rw [lastBlock_of_complete km hne h, BitVec.xor_assoc, BitVec.xor_self, BitVec.xor_zero,
      byte_blockOfBytes_drop _ _ (by omega)]
  · rw [lastBlock_of_incomplete km h, BitVec.xor_assoc, BitVec.xor_self, BitVec.xor_zero, byte_pad _ _ _ (by omega),
      byte_blockOfBytes_drop _ _ (by omega)]

/-! ### `Compute` (R125, R128, R130) -/

section
variable (cfg : Config) (km : KeyMaterial) (iv : Block) {m : List Byte}

theorem compute_of_complete (hne : m ≠ []) (h : m.length % 16 = 0) :
    compute cfg km iv m = cfg.encrypt km.rawKey
      (chainValue cfg km.rawKey iv m (m.length / 16 - 1) ^^^ blockOfBytes (m.drop (m.length - 16)) ^^^ km.subkey1) := by
  rw [compute, lastBlock_of_complete km hne h, blockCount_of_complete (List.length_pos_iff.mpr hne) h,
    BitVec.xor_assoc]

theorem compute_of_incomplete (h : m = [] ∨ m.length % 16 ≠ 0) :
    compute cfg km iv m = cfg.encrypt km.rawKey
      (chainValue cfg km.rawKey iv m (m.length / 16) ^^^
        pad (blockOfBytes (m.drop (m.length - m.length % 16))) (m.length % 16) ^^^ km.subkey2) := by
  rw [compute, lastBlock_of_incomplete km h, blockCount_of_incomplete (h.imp_left List.length_eq_zero_iff.mpr),
    Nat.add_sub_cancel, BitVec.xor_assoc]

/-- The chaining value is R125's loop over the blocks in order. -/
theorem chainValue_eq_foldl (rawKey : Block) (m : List Byte) (q : Nat) :
    chainValue cfg rawKey iv m q =
      (List.range q).foldl (fun cv i => cfg.encrypt rawKey (cv ^^^ messageBlock m i)) iv := by
  induction q with
  | zero => rfl
  | succ q ih => rw [List.range_succ, List.foldl_append, ← ih]; rfl

end

/-- No message byte and the padding byte in front (R130). -/
theorem pad_zero_zero : pad 0#128 0 = 0x80000000000000000000000000000000#128 := by decide

/-- Settles O38: the two edge cases are the two formulas at the lengths 0 and 16, and each formula names one subkey. -/
theorem computeEdgeCases : Obligations.ComputeEdgeCases := by
  refine ⟨fun cfg km iv => ?_, fun cfg km iv m h => ?_,
    fun cfg km iv m => ⟨compute_of_complete cfg km iv, compute_of_incomplete cfg km iv⟩,
    fun cfg k k1 k2 x iv m => ⟨fun hne h => ?_, fun h => ?_⟩⟩
  · rw [compute_of_incomplete cfg km iv (.inl rfl), List.drop_nil, blockOfBytes_nil]
    exact congrArg (fun v => cfg.encrypt km.rawKey (iv ^^^ v ^^^ km.subkey2)) pad_zero_zero
  · have hne : m ≠ [] := List.length_pos_iff.mp (by omega)
    rw [compute_of_complete cfg km iv hne (by omega), h]
    rfl
  · rw [compute_of_complete cfg _ iv hne h, compute_of_complete cfg _ iv hne h]
  · rw [compute_of_incomplete cfg _ iv h, compute_of_incomplete cfg _ iv h]

/-- Settles O39: the recursive chaining value is the rule's loop, and the flag is the rule's condition. -/
theorem computeIsTheReferenceFunction : Obligations.ComputeIsTheReferenceFunction := by
  intro cfg km iv m
  rw [compute, chainValue_eq_foldl, lastBlock_eq_ite]
  rfl

/-! ### INIT -/

theorem decode_of_op_init {w : CmdWord} (h : cmdOp w = 0x02#8) : decode w = .ok (.init (cmdData w)) := by
  simp [decode, h]

section
variable (iv : Block) {s : State}

theorem init_of_fault (he : s.err ≠ .none) : init iv s = s := ignoreInFault_of_fault he

theorem init_of_noKey (he : s.err = .none) (hk : s.kv = false) : init iv s = s.raise .noKey := keyed_of_noKey he hk

/-- `MA` is not asked: INIT in ACTIVE abandons the message in progress (R132). -/
theorem init_of_key (he : s.err = .none) (hk : s.kv = true) : init iv s = beginMessage iv s := keyed_of_key he hk

end

/-- Settles O16: R132's two checks leave three cases, and in the last a message is begun. -/
theorem initBeginsMessage : Obligations.InitBeginsMessage := by
  refine ⟨fun w => decode_of_op_init, fun iv s => ⟨fun he => ?_, fun he hk => ?_, fun he hk => ?_⟩⟩
  · rw [exec_init, init_of_fault iv he]
  · rw [exec_init, init_of_noKey iv he hk, State.raise]
  · rw [exec_init, init_of_key iv he hk, beginMessage]

/-! ### ABSORB -/

/-- The decoder zeroes the bits below the first `len` bytes only (R75). -/
theorem byte_keepBytes (len : Byte) (data : Block) {i : Nat} (h16 : i < 16) (h : i < len.toNat) :
    byte (keepBytes len data) i = byte data i := by
  apply BitVec.eq_of_getLsbD_eq
  intro j hj
  have hin : 120 - 8 * i + j < 128 := by omega
  have hkept : ¬ 120 - 8 * i + j < 128 - 8 * len.toNat := by omega
  have hback : 128 - 8 * len.toNat + (120 - 8 * i + j - (128 - 8 * len.toNat)) = 120 - 8 * i + j := by omega
  simp only [byte, keepBytes, BitVec.getLsbD_extractLsb', BitVec.getLsbD_shiftLeft, BitVec.getLsbD_ushiftRight, hj, hin,
    hkept, hback, decide_true, decide_false, Bool.true_and, Bool.not_false]

theorem decode_of_op_absorb {w : CmdWord} (h : cmdOp w = 0x03#8) :
    decode w = .ok (.absorb (cmdLen w) (keepBytes (cmdLen w) (cmdData w))) := by
  simp [decode, h]

section
variable (cfg : Config) {len : Byte} (d : Block) {s : State}

theorem absorb_of_fault (he : s.err ≠ .none) : absorb cfg len d s = s := ignoreInFault_of_fault he

theorem absorb_of_noKey (he : s.err = .none) (hk : s.kv = false) : absorb cfg len d s = s.raise .noKey :=
  keyed_of_noKey he hk

theorem absorb_of_inactive (he : s.err = .none) (hk : s.kv = true) (hm : s.ma = false) :
    absorb cfg len d s = s.raise .sequence :=
  (keyed_of_key he hk).trans (needMessage_of_inactive hm)

theorem absorb_of_overLong (he : s.err = .none) (hk : s.kv = true) (hm : s.ma = true) (hl : 16 < len.toNat) :
    absorb cfg len d s = s.raise .length :=
  (keyed_of_key he hk).trans ((needMessage_of_active hm).trans (needLength_of_gt hl))

theorem absorb_of_legal (he : s.err = .none) (hk : s.kv = true) (hm : s.ma = true) (hl : len.toNat ≤ 16) :
    absorb cfg len d s = absorbBytes cfg s (messageBytes len.toNat d) :=
  (keyed_of_key he hk).trans ((needMessage_of_active hm).trans (needLength_of_le hl))

end

/-- Settles O18: the decoder keeps the bytes that are absorbed, and R134's four checks leave five cases, of which the
last one runs the byte steps. -/
theorem absorbFoldsByteSteps : Obligations.AbsorbFoldsByteSteps := by
  refine ⟨fun w hop => ⟨_, decode_of_op_absorb hop, fun i => byte_keepBytes _ _⟩, fun len d s =>
    ⟨fun he => ?_, fun he hk => ?_, fun he hk hm => ?_, fun he hk hm hl => ?_, fun he hk hm hl => ?_⟩⟩
  · rw [exec_absorb, absorb_of_fault _ d he]
  · rw [exec_absorb, absorb_of_noKey _ d he hk, State.raise]
  · rw [exec_absorb, absorb_of_inactive _ d he hk hm, State.raise]
  · rw [exec_absorb, absorb_of_overLong _ d he hk hm hl, State.raise]
  · rw [exec_absorb, absorb_of_legal _ d he hk hm hl, absorbBytes, messageBytes]

end Sys2Proof.Machine
end

section
/-! PROOFS of the family `43_system`: NOP (R150) and CLR (R151), the two commands that make none of R162's checks. -/

namespace Sys2Proof.Machine

/-! ### NOP -/

theorem decode_of_op_nop {w : CmdWord} (h : cmdOp w = 0x00#8) : decode w = .ok .nop := by simp [decode, h]

/-- Settles O13: the opcode alone selects NOP, and its arm answers the state it was given without asking the phase. -/
theorem nopChangesNothing : Obligations.NopChangesNothing :=
  ⟨fun _ => decode_of_op_nop, exec_nop⟩

/-! ### CLR -/

theorem decode_of_op_clr {w : CmdWord} (h : cmdOp w = 0x09#8) : decode w = .ok .clr := by simp [decode, h]

/-- A cleared state register by register (R39, R151): of the state before, only what the host drives is left. -/
theorem clear_eq (s : State) : s.clear =
    { key := 0#128, k1 := 0#128, k2 := 0#128, cv := 0#128, buf := 0#128, bufLen := 0, dout := 0#128,
      kv := false, ma := false, dv := false, err := .none, inputs := s.inputs } := rfl

/-- Settles O14: the opcode alone selects CLR, and its arm answers the cleared state without asking the phase. -/
theorem clrWritesResetValues : Obligations.ClrWritesResetValues := by
  refine ⟨fun w => decode_of_op_clr, fun s => ?_⟩
  rw [exec_clr, clear_eq]

end Sys2Proof.Machine
end

section
/-! PROOFS of the family `60_exceptions`: the checks of R162, fault entry (R163), the causes (R161), the lock (R164) and
the ways out of FAULT (R165). -/

namespace Sys2Proof.Machine

/-! ### The checks of R162 as a verdict -/

/-- The state a verdict leaves: as it was, with the fault recorded, or `t`, the one the command's writes give. -/
def Verdict.outcome (v : Verdict) (s t : State) : State :=
  match v with
  | .execute => t
  | .ignore => s
  | .fault c => s.raise c

@[simp] theorem outcome_execute (s t : State) : Verdict.execute.outcome s t = t := rfl
@[simp] theorem outcome_ignore (s t : State) : Verdict.ignore.outcome s t = s := rfl
@[simp] theorem outcome_fault (c : ErrCode) (s t : State) : (Verdict.fault c).outcome s t = s.raise c := rfl

/-- What a command writes once its checks have passed. -/
def commandWrites (cfg : Config) (i : Instr) (s : State) : State :=
  match i with
  | .nop => s
  | .loadkey key => storeKey (newKeyMaterial cfg key) s
  | .init iv => beginMessage iv s
  | .absorb len data => absorbBytes cfg s (messageBytes len.toNat data)
  | .final => endMessage (cfg.encrypt s.key (s.cv ^^^ finalBlock s)) s
  | .enc block => deliver (cfg.encrypt s.key block) s
  | .rdkey => deliver s.key s
  | .rdk1 => deliver s.k1 s
  | .rdk2 => deliver s.k2 s
  | .clr => s.clear

/-- Of the writes, CLR's alone reach `ERR`. -/
theorem commandWrites_err (cfg : Config) (i : Instr) (s : State) :
    (commandWrites cfg i s).err = if i = .clr then .none else s.err := by
  cases i with
  | absorb len data =>
    obtain ⟨-, -, -, -, -, -, -, herr, -⟩ := absorbBytes_frame cfg (messageBytes len.toNat data) s
    exact herr
  | _ => rfl

theorem commandWrites_err_of_none (cfg : Config) (i : Instr) {s : State} (he : s.err = .none) :
    (commandWrites cfg i s).err = .none := by
  rw [commandWrites_err, he, ite_self]

/-! Each check of the model is one line of R162's list: it decides, or the verdict `v` of the later checks does. -/

section
variable (s t : State) (v : Verdict)

theorem ignoreInFault_outcome :
    ignoreInFault s (v.outcome s t) = (if s.err ≠ .none then .ignore else v).outcome s t := by
  by_cases he : s.err = .none <;> simp [he]

theorem needKey_outcome :
    needKey s (v.outcome s t) = (if !s.kv then .fault .noKey else v).outcome s t := by
  cases hk : s.kv <;> simp [hk]

theorem needMessage_outcome :
    needMessage s (v.outcome s t) = (if !s.ma then .fault .sequence else v).outcome s t := by
  cases hm : s.ma <;> simp [hm]

theorem needNoMessage_outcome :
    needNoMessage s (v.outcome s t) = (if s.ma then .fault .sequence else v).outcome s t := by
  cases hm : s.ma <;> simp [hm]

theorem needLength_outcome (len : Byte) :
    needLength len s (v.outcome s t) = (if decide (16 < len.toNat) then .fault .length else v).outcome s t := by
  by_cases hl : len.toNat ≤ 16
  · simp [hl, Nat.not_lt.mpr hl]
  · simp [Nat.lt_of_not_le hl]

/-- The first two checks of a command that needs a key. -/
theorem keyed_outcome :
    ignoreInFault s (needKey s (v.outcome s t)) =
      (if s.err ≠ .none then .ignore else if !s.kv then .fault .noKey else v).outcome s t := by
  rw [needKey_outcome, ignoreInFault_outcome]

end

/-- A command does what R162 decides: the checks its meaning is made of are the lines of `verdict`, in their order. -/
theorem commandEffect_eq_outcome (cfg : Config) (i : Instr) (s : State) :
    commandEffect cfg i s = (verdict i s).outcome s (commandWrites cfg i s) := by
  cases i with
  | nop => rfl
  | clr => rfl
  | loadkey key =>
    exact (congrArg (ignoreInFault s) (needNoMessage_outcome s _ .execute)).trans (ignoreInFault_outcome s _ _)
  | absorb len data =>
    have hlength := congrArg (needMessage s) (needLength_outcome s (commandWrites cfg (.absorb len data) s) .execute len)
    have hmessage := hlength.trans (needMessage_outcome s _ _)
    exact (congrArg (fun u => ignoreInFault s (needKey s u)) hmessage).trans (keyed_outcome s _ _)
  | final =>
    exact (congrArg (fun u => ignoreInFault s (needKey s u)) (needMessage_outcome s _ .execute)).trans
      (keyed_outcome s _ _)
  | init iv => exact keyed_outcome s _ .execute
  | enc block => exact keyed_outcome s _ .execute
  | rdkey => exact keyed_outcome s _ .execute
  | rdk1 => exact keyed_outcome s _ .execute
  | rdk2 => exact keyed_outcome s _ .execute

theorem eq_commandEffect_of_exec {i : Instr} {s t : State} (h : exec i s = .next t) :
    t = commandEffect Config.hardware i s := by
  rw [exec_eq_commandEffect] at h
  injection h with h
  exact h.symm

theorem exec_eq_outcome (i : Instr) (s : State) :
    exec i s = .next ((verdict i s).outcome s (commandWrites Config.hardware i s)) := by
  rw [exec_eq_commandEffect, commandEffect_eq_outcome]

/-! ### Accepted words -/

theorem step_of_present_word {s : State} {w : CmdWord} {rest : List HostInput} (h : s.inputs = present w :: rest) :
    step s = acceptWord w { s with inputs := rest } := by
  rw [step_cons h, portEvent_present, handle_command]

section
variable {s : State} {w : CmdWord} {rest : List HostInput} (hi : s.inputs = present w :: rest)
  (hop : 0x0A ≤ (cmdOp w).toNat)
include hi hop

theorem step_of_reserved :
    step s = .next (ignoreInFault { s with inputs := rest } { s with err := .illegalOpcode, inputs := rest }) := by
  rw [step_of_present_word hi, acceptWord_of_error (decode_of_reserved hop), execReserved, State.raise]

theorem step_of_reserved_of_fault (he : s.err ≠ .none) : step s = .next { s with inputs := rest } := by
  rw [step_of_reserved hi hop, ignoreInFault_of_fault (s := { s with inputs := rest }) he]

theorem step_of_reserved_of_none (he : s.err = .none) :
    step s = .next { s with err := .illegalOpcode, inputs := rest } := by
  rw [step_of_reserved hi hop, ignoreInFault_of_none (s := { s with inputs := rest }) he]

end

/-- Settles O23: a command does what its verdict says, and a reserved word meets the lock and then faults. -/
theorem checksFollowPriority : Obligations.ChecksFollowPriority := by
  refine ⟨fun i s => ⟨fun h => ?_, fun c h => ?_, fun h => ?_⟩, fun s w rest hi hop =>
    ⟨step_of_reserved_of_fault hi hop, step_of_reserved_of_none hi hop⟩⟩
  · rw [exec_eq_outcome, h, outcome_ignore]
  · rw [exec_eq_outcome, h, outcome_fault, State.raise]
  · rw [exec_eq_outcome, h, outcome_execute]
    exact ⟨_, rfl, commandWrites_err _ i s⟩

/-! ### FAULT: the lock and the two ways out -/

/-- In FAULT every command but CLR is ignored (R164). -/
theorem commandEffect_of_fault (cfg : Config) {i : Instr} {s : State} (he : s.err ≠ .none) (hi : i ≠ .clr) :
    commandEffect cfg i s = s := by
  cases i with
  | nop => rfl
  | clr => exact absurd rfl hi
  | _ => exact ignoreInFault_of_fault he

theorem acceptWord_of_fault {w : CmdWord} {s : State} (he : s.err ≠ .none) (hop : cmdOp w ≠ 0x09#8) :
    acceptWord w s = .next s := by
  cases hd : decode w with
  | ok i =>
    have hi : i ≠ .clr := fun hclr => hop ((cmdOp_of_decode hd).trans (congrArg opcode hclr))
    rw [acceptWord_of_ok hd, exec_eq_commandEffect, commandEffect_of_fault _ he hi]
  | error e => rw [acceptWord_of_error hd, execReserved, ignoreInFault_of_fault he]

/-- Settles O26: the word is a command other than CLR or a reserved one, and the lock ignores both. -/
theorem faultLockIgnoresEveryWordButClr : Obligations.FaultLockIgnoresEveryWordButClr := by
  intro s w rest hi he hop
  rw [step_of_present_word hi]
  exact acceptWord_of_fault he hop

/-- The samples that leave FAULT (R165): a reset, or the word of CLR. -/
def LeavesFault (p : HostInput) : Prop := p.rst = true ∨ (p.cmdValid = true ∧ cmdOp p.cmd = 0x09#8)

section
variable {s : State} {p : HostInput} {rest : List HostInput} (hi : s.inputs = p :: rest)
include hi

theorem step_of_leavesFault (hp : LeavesFault p) : step s = .next { State.reset with inputs := rest } := by
  cases hr : p.rst with
  | true => exact step_of_rst hi hr
  | false =>
    obtain hrst | ⟨hv, hop⟩ := hp
    · exact absurd (hr.symm.trans hrst) Bool.false_ne_true
    · rw [step_cons hi, portEvent_of_valid hr hv, handle_command, acceptWord_of_ok (decode_of_op_clr hop), exec_clr,
        State.clear]

theorem step_of_fault (he : s.err ≠ .none) (hp : ¬ LeavesFault p) : step s = .next { s with inputs := rest } := by
  have hr : p.rst = false := Bool.eq_false_iff.mpr fun h => hp (.inl h)
  cases hv : p.cmdValid with
  | false => exact step_of_idle hi hr hv
  | true =>
    rw [step_cons hi, portEvent_of_valid hr hv, handle_command]
    exact acceptWord_of_fault he fun hop => hp (.inr ⟨hv, hop⟩)

end

/-- Everything a step from FAULT can do: change no register, or reset them all, on a sample that asks for it. -/
theorem step_cases_of_fault {s t : State} (h : step s = .next t) (he : s.err ≠ .none) :
    t = { s with inputs := s.inputs.tail } ∨
    (t = { State.reset with inputs := s.inputs.tail } ∧ ∃ p rest, s.inputs = p :: rest ∧ LeavesFault p) := by
  cases hi : s.inputs with
  | nil =>
    rw [step_nil hi] at h
    injection h with h
    have hsame : s = { s with inputs := [] } := by rw [← hi]
    exact .inl (h.symm.trans hsame)
  | cons p rest =>
    by_cases hp : LeavesFault p
    · rw [step_of_leavesFault hi hp] at h
      injection h with h
      exact .inr ⟨h.symm, p, rest, rfl, hp⟩
    · rw [step_of_fault hi he hp] at h
      injection h with h
      exact .inl h.symm

/-- Settles O27: a step from FAULT that does not reset the core keeps `ERR`; and each sample that leaves FAULT resets it
from any state. -/
theorem faultIsLeftOnlyByClrOrReset : Obligations.FaultIsLeftOnlyByClrOrReset := by
  refine ⟨fun s t h he ht => ?_, fun s p rest hi hp => step_of_leavesFault hi hp⟩
  obtain rfl | hreset := step_cases_of_fault h he
  · exact absurd ht he
  · exact hreset

/-! ### Fault entry -/

section
variable {v : Verdict} {s t : State} (hs : s.err = .none) (ht : t.err = .none)
include hs ht

theorem outcome_err_eq_iff {c : ErrCode} (hc : c ≠ .none) : (v.outcome s t).err = c ↔ v = .fault c := by
  cases v with
  | execute => simp [ht, hc.symm]
  | ignore => simp [hs, hc.symm]
  | fault c' => simp

theorem outcome_eq_raise (h : (v.outcome s t).err ≠ .none) : v.outcome s t = s.raise (v.outcome s t).err := by
  cases v with
  | execute => exact absurd ht h
  | ignore => exact absurd hs h
  | fault c => rfl

end

section
variable (cfg : Config) {i : Instr} {s : State} (he : s.err = .none)
include he

/-- Outside FAULT the code a command records is the one of its verdict. -/
theorem commandEffect_err_eq_iff {c : ErrCode} (hc : c ≠ .none) :
    (commandEffect cfg i s).err = c ↔ verdict i s = .fault c := by
  rw [commandEffect_eq_outcome]
  exact outcome_err_eq_iff he (commandWrites_err_of_none cfg i he) hc

/-- A command that records a fault writes `ERR` and nothing else (R163). -/
theorem commandEffect_eq_raise (h : (commandEffect cfg i s).err ≠ .none) :
    commandEffect cfg i s = s.raise (commandEffect cfg i s).err := by
  rw [commandEffect_eq_outcome] at h ⊢
  exact outcome_eq_raise he (commandWrites_err_of_none cfg i he) h

end

/-- A step that records a fault writes `ERR` and uses up its sample. -/
theorem step_eq_raise {s t : State} (h : step s = .next t) (he : s.err = .none) (ht : t.err ≠ .none) :
    t = { s with err := t.err, inputs := s.inputs.tail } := by
  obtain ⟨-, rfl⟩ | ⟨p, rest, hi, ⟨-, rfl⟩ | ⟨-, rfl⟩ | ⟨w, i, -, -, hexec⟩ | ⟨w, e, -, -, hres⟩⟩ := step_cases h
  · exact absurd he ht
  · exact absurd he ht
  · exact absurd rfl ht
  · obtain rfl := eq_commandEffect_of_exec hexec
    rw [hi]
    exact commandEffect_eq_raise Config.hardware (s := { s with inputs := rest }) he ht
  · rw [execReserved, ignoreInFault_of_none (s := { s with inputs := rest }) he] at hres
    injection hres with hres
    subst hres
    rw [hi]
    rfl

/-- FLT is bit 3 of the status word (R32). -/
theorem status_fltBit (s : State) : (status s).getLsbD 3 = faultFlag s := by
  simp only [status, BitVec.getLsbD_append]
  simp

/-- The ERR field is bits 6 to 4 of the status word (R32). -/
theorem status_errField (s : State) : (status s).extractLsb' 4 3 = errBits s.err := by
  apply BitVec.eq_of_getLsbD_eq
  intro j hj
  simp only [status, BitVec.getLsbD_extractLsb', BitVec.getLsbD_append]
  have hlow : ¬ 4 + j < 1 := by omega
  simp [hlow, hj]

theorem faultFlag_of_fault {s : State} (h : s.err ≠ .none) : faultFlag s = true := bne_iff_ne.mpr h

/-- Settles O24: a step that enters FAULT writes `ERR`, which the status word shows; one from FAULT that stays there
changes no register. -/
theorem faultEntryWritesErrOnly : Obligations.FaultEntryWritesErrOnly := by
  refine fun s t h => ⟨fun he ht => ⟨step_eq_raise h he ht, ?_, status_errField t⟩, fun he ht => ?_⟩
  · exact (status_fltBit t).trans (faultFlag_of_fault ht)
  · obtain rfl | ⟨rfl, -⟩ := step_cases_of_fault h he
    · rfl
    · exact absurd rfl ht

/-! ### The causes -/

/-- NOP and CLR meet none of the checks after the lock. -/
theorem no_check_of_alwaysExecutes {i : Instr} (h : alwaysExecutes i = true) (s : State) :
    needsKey i = false ∧ outOfOrder i s = false ∧ overLong i = false := by
  cases i with
  | nop => exact ⟨rfl, rfl, rfl⟩
  | clr => exact ⟨rfl, rfl, rfl⟩
  | _ => exact absurd h Bool.false_ne_true

section
variable (i : Instr) {s : State} (he : s.err = .none)
include he

/-- Outside FAULT the checks 5, 6 and 7 of R162 are left. -/
theorem verdict_of_none : verdict i s =
    if needsKey i && !s.kv then .fault .noKey
    else if outOfOrder i s then .fault .sequence
    else if overLong i then .fault .length
    else .execute := by
  by_cases h : alwaysExecutes i = true
  · obtain ⟨hkey, horder, hlen⟩ := no_check_of_alwaysExecutes h s
    simp [verdict, h, hkey, horder, hlen]
  · simp [verdict, h, he]

theorem verdict_ne_illegalOpcode : verdict i s ≠ .fault .illegalOpcode := by
  rw [verdict_of_none i he]
  split_ifs <;> simp

theorem verdict_eq_noKey_iff : verdict i s = .fault .noKey ↔ (needsKey i && !s.kv) = true := by
  rw [verdict_of_none i he]
  split_ifs <;> simp_all

theorem verdict_eq_sequence_iff :
    verdict i s = .fault .sequence ↔ (needsKey i && !s.kv) = false ∧ outOfOrder i s = true := by
  rw [verdict_of_none i he]
  split_ifs <;> simp_all

theorem verdict_eq_length_iff : verdict i s = .fault .length ↔
    (needsKey i && !s.kv) = false ∧ outOfOrder i s = false ∧ overLong i = true := by
  rw [verdict_of_none i he]
  split_ifs <;> simp_all

end

theorem commandEffect_err_ne_illegalOpcode (cfg : Config) {i : Instr} {s : State} (he : s.err = .none) :
    (commandEffect cfg i s).err ≠ .illegalOpcode :=
  (commandEffect_err_eq_iff cfg he (by decide)).not.mpr (verdict_ne_illegalOpcode i he)

/-! The commands whose checks 5, 6 and 7 fail (R161), each check after those before it. -/

theorem keyCheckFails_iff (i : Instr) (s : State) : (needsKey i && !s.kv) = true ↔
    s.kv = false ∧ ((∃ v, i = .init v) ∨ (∃ n d, i = .absorb n d) ∨ i = .final ∨
      (∃ b, i = .enc b) ∨ i = .rdkey ∨ i = .rdk1 ∨ i = .rdk2) := by
  cases i <;> simp [needsKey]

theorem orderCheckFails_iff (i : Instr) (s : State) :
    (needsKey i && !s.kv) = false ∧ outOfOrder i s = true ↔ (s.ma = true ∧ ∃ k, i = .loadkey k) ∨
      (s.kv = true ∧ s.ma = false ∧ ((∃ n d, i = .absorb n d) ∨ i = .final)) := by
  cases i <;> simp [needsKey, outOfOrder]

theorem lengthCheckFails_iff (i : Instr) (s : State) :
    (needsKey i && !s.kv) = false ∧ outOfOrder i s = false ∧ overLong i = true ↔
      s.kv = true ∧ s.ma = true ∧ ∃ n d, i = .absorb n d ∧ 16 < n.toNat := by
  cases i <;> simp [needsKey, outOfOrder, overLong]

theorem decode_of_op_final {w : CmdWord} (h : cmdOp w = 0x04#8) : decode w = .ok .final := by simp [decode, h]

/-- A word whose opcode is not reserved is one of R74's ten commands. -/
theorem exists_decode_of_not_reserved {w : CmdWord} (h : ¬ 0x0A ≤ (cmdOp w).toNat) : ∃ i, decode w = .ok i := by
  have hop : cmdOp w = 0x00#8 ∨ cmdOp w = 0x01#8 ∨ cmdOp w = 0x02#8 ∨ cmdOp w = 0x03#8 ∨ cmdOp w = 0x04#8 ∨
      cmdOp w = 0x05#8 ∨ cmdOp w = 0x06#8 ∨ cmdOp w = 0x07#8 ∨ cmdOp w = 0x08#8 ∨ cmdOp w = 0x09#8 := by bv_omega
  obtain h | h | h | h | h | h | h | h | h | h := hop
  · exact ⟨_, decode_of_op_nop h⟩
  · exact ⟨_, decode_of_op_loadkey h⟩
  · exact ⟨_, decode_of_op_init h⟩
  · exact ⟨_, decode_of_op_absorb h⟩
  · exact ⟨_, decode_of_op_final h⟩
  · exact ⟨_, decode_of_op_enc h⟩
  · exact ⟨_, decode_of_op_rdkey h⟩
  · exact ⟨_, decode_of_op_rdk1 h⟩
  · exact ⟨_, decode_of_op_rdk2 h⟩
  · exact ⟨_, decode_of_op_clr h⟩

/-- ILLEGAL_OPCODE is recorded for a reserved word only. -/
theorem step_err_ne_illegalOpcode {s t : State} {w : CmdWord} {rest : List HostInput}
    (hi : s.inputs = present w :: rest) (he : s.err = .none) (hop : ¬ 0x0A ≤ (cmdOp w).toNat) (h : step s = .next t) :
    t.err ≠ .illegalOpcode := by
  obtain ⟨i, hd⟩ := exists_decode_of_not_reserved hop
  rw [step_of_present_word hi, acceptWord_of_ok hd] at h
  obtain rfl := eq_commandEffect_of_exec h
  exact commandEffect_err_ne_illegalOpcode Config.hardware he

/-- Settles O25: outside FAULT the code recorded is the verdict's, and the verdict's checks fail on the table's causes;
ILLEGAL_OPCODE is no command's verdict but the answer to every reserved word. -/
theorem faultCausesAndCodes : Obligations.FaultCausesAndCodes := by
  refine ⟨⟨rfl, rfl, rfl, rfl, rfl⟩, fun i s t he h => ?_, fun i s t h => ?_, fun s t w rest hi h =>
    ⟨fun he => ?_, fun he hop => ?_⟩⟩
  · obtain rfl := eq_commandEffect_of_exec h
    have hcode {c : ErrCode} := commandEffect_err_eq_iff Config.hardware (i := i) (c := c) he
    refine ⟨commandEffect_err_ne_illegalOpcode Config.hardware he, ?_, ?_, ?_,
      commandEffect_eq_raise Config.hardware he⟩
    · rw [hcode (by decide), verdict_eq_noKey_iff i he, keyCheckFails_iff]
    · rw [hcode (by decide), verdict_eq_sequence_iff i he, orderCheckFails_iff]
    · rw [hcode (by decide), verdict_eq_length_iff i he, lengthCheckFails_iff]
  · obtain rfl := eq_commandEffect_of_exec h
    exact ⟨fun hnop => hnop ▸ rfl, fun hclr => hclr ▸ rfl, commandEffect_of_fault Config.hardware⟩
  · by_cases hop : 0x0A ≤ (cmdOp w).toNat
    · rw [step_of_reserved_of_none hi hop he] at h
      injection h with h
      subst h
      exact ⟨iff_of_true rfl hop, fun _ => rfl⟩
    · have hne := step_err_ne_illegalOpcode hi he hop h
      exact ⟨iff_of_false hne hop, fun hill => absurd hill hne⟩
  · rw [step_of_reserved_of_fault hi hop he] at h
    injection h with h
    exact h.symm

end Sys2Proof.Machine
end

section
/-! PROOFS of the family `70_reset_and_hazards`: `rst` takes precedence over a command (R185). -/

namespace Sys2Proof.Machine

/-- Settles O2: a sample with `rst` is answered by the reset state with the later samples on the port, whatever its other
ports hold, and the reset state is zero in every register and flag. -/
theorem resetOverridesAnyCommand : Obligations.ResetOverridesAnyCommand := by
  intro s p rest hi hr
  calc step s = .next { State.reset with inputs := rest } := step_of_rst hi hr
    _ = _ := rfl

end Sys2Proof.Machine
end

section
/-! PROOFS about the decoder (R74 to R82): canonical words and frames decode to their command, reserved opcodes are all
that is rejected, and ignored fields have no effect. -/

namespace Sys2Proof.Machine

/-! ### Canonical words and frames -/

@[simp] theorem length_frameOfWord (w : CmdWord) : (frameOfWord w).length = 18 := by
  rw [frameOfWord, List.length_map, List.length_range]

/-- The frame of a command's word is read off the front of a byte stream (R72). -/
theorem decodeFrame_frameOfWord_append {w : CmdWord} {i : Instr} (h : decode w = .ok i) (rest : List Byte) :
    decodeFrame (frameOfWord w ++ rest) = .ok (i, rest) := by
  have hlong : ¬ (frameOfWord w ++ rest).length < 18 := by simp
  have htake : (frameOfWord w ++ rest).take 18 = frameOfWord w := List.take_left' (length_frameOfWord w)
  have hdrop : (frameOfWord w ++ rest).drop 18 = rest := List.drop_left' (length_frameOfWord w)
  rw [decodeFrame, if_neg hlong, htake, hdrop, wordOfFrame_frameOfWord, h]

/-- Settles O7: the decoder reads a canonical word back, and the frame is the word's. -/
theorem decodeOfEncodeIsIdentity : Obligations.DecodeOfEncodeIsIdentity :=
  fun _ rest h => ⟨decode_encode h, decodeFrame_frameOfWord_append (decode_encode h) rest⟩

/-! ### What a word decodes to -/

/-- The opcode byte of each command's word, command by command. -/
theorem opcodeByte (i : Instr) : Laws.OpcodeByte.Statement i := by
  cases i with
  | nop => exact Laws.OpcodeByte.nop
  | loadkey key => exact Laws.OpcodeByte.loadkey key
  | init iv => exact Laws.OpcodeByte.init iv
  | absorb len data => exact Laws.OpcodeByte.absorb len data
  | final => exact Laws.OpcodeByte.final
  | enc block => exact Laws.OpcodeByte.enc block
  | rdkey => exact Laws.OpcodeByte.rdkey
  | rdk1 => exact Laws.OpcodeByte.rdk1
  | rdk2 => exact Laws.OpcodeByte.rdk2
  | clr => exact Laws.OpcodeByte.clr

theorem cmdOp_encode (i : Instr) : cmdOp (encode i) = opcode i := (opcodeByte i).1

theorem opcode_le_nine (i : Instr) : (opcode i).toNat ≤ 9 := (opcodeByte i).2

/-- Only an ABSORB can fail to be canonical, and the decoder zeroes its ignored bits (R75, R80). -/
theorem wellFormed_of_decode {w : CmdWord} {i : Instr} (h : decode w = .ok i) : i.wellFormed = true := by
  cases i with
  | absorb len data =>
    have hop : cmdOp w = 0x03#8 := cmdOp_of_decode h
    obtain ⟨rfl, rfl⟩ := Instr.absorb.inj (Except.ok.inj ((decode_of_op_absorb hop).symm.trans h))
    exact keepBytes_canonical _ _
  | _ => rfl

/-- Settles O8: the decoder's result is well-formed and has the word's opcode, and the other two parts follow from
these. -/
theorem decodedCommandIsCanonical : Obligations.DecodedCommandIsCanonical := by
  intro w i h
  have hwf := wellFormed_of_decode h
  have hop := cmdOp_of_decode h
  exact ⟨hwf, hop.symm, (cmdOp_encode i).trans hop.symm, decode_encode hwf⟩

/-- Settles O9: a command has one of the ten opcodes, a word with another one is rejected with it, and a word with one
of the ten is not rejected. -/
theorem decoderRejectsExactlyReservedOpcodes : Obligations.DecoderRejectsExactlyReservedOpcodes := by
  refine fun w => ⟨⟨fun ⟨i, h⟩ => ?_, fun h => exists_decode_of_not_reserved (by omega)⟩, fun e he => ?_⟩
  · rw [cmdOp_of_decode h]
    exact opcode_le_nine i
  · by_cases hop : 0x0A ≤ (cmdOp w).toNat
    · rw [decode_of_reserved hop] at he
      injection he with he
      exact he.symm
    · obtain ⟨i, h⟩ := exists_decode_of_not_reserved hop
      rw [h] at he
      nomatch he

/-! ### Ignored fields (R75) -/

/-- Beyond the first `len` bytes the decoder leaves zeros. -/
theorem byte_keepBytes_of_le (len : Byte) (data : Block) {i : Nat} (h16 : i < 16) (h : len.toNat ≤ i) :
    byte (keepBytes len data) i = 0#8 := by
  apply BitVec.eq_of_getLsbD_eq
  intro j hj
  have hcut : 120 - 8 * i + j < 128 - 8 * len.toNat := by omega
  simp [byte, keepBytes, hcut]

theorem keepBytes_congr {len : Byte} {d d' : Block} (h : ∀ i, i < 16 → i < len.toNat → byte d i = byte d' i) :
    keepBytes len d = keepBytes len d' := by
  refine block_ext fun i hi => ?_
  by_cases hlen : i < len.toNat
  · rw [byte_keepBytes len d hi hlen, byte_keepBytes len d' hi hlen, h i hi hlen]
  · rw [byte_keepBytes_of_le len d hi (by omega), byte_keepBytes_of_le len d' hi (by omega)]

theorem messageBytes_congr {n : Nat} {d d' : Block} (h : ∀ i, i < n → byte d i = byte d' i) :
    messageBytes n d = messageBytes n d' :=
  List.map_congr_left fun i hi => h i (List.mem_range.mp hi)

/-- Two ABSORBs of one length have the same effect if their byte steps do; a beat that is too long makes none. -/
theorem absorb_congr {cfg cfg' : Config} {len : Byte} {d d' : Block} {s : State} (h : len.toNat ≤ 16 →
    absorbBytes cfg s (messageBytes len.toNat d) = absorbBytes cfg' s (messageBytes len.toNat d')) :
    absorb cfg len d s = absorb cfg' len d' s := by
  by_cases hl : len.toNat ≤ 16
  · rw [absorb, h hl, absorb]
  · rw [absorb, absorb, needLength_of_gt (by omega), needLength_of_gt (by omega)]

theorem absorb_congr_data (cfg : Config) {len : Byte} {d d' : Block} (s : State)
    (h : ∀ i, i < 16 → i < len.toNat → byte d i = byte d' i) : absorb cfg len d s = absorb cfg len d' s :=
  absorb_congr fun hl => congrArg _ (messageBytes_congr fun i hi => h i (by omega) hi)

/-- Settles O10: off ABSORB the decoder reads no `len`, and `data` for three opcodes only; of an ABSORB's data both the
decoder and the command read the first `len` bytes. -/
theorem ignoredFieldsHaveNoEffect : Obligations.IgnoredFieldsHaveNoEffect := by
  refine ⟨fun w w' hop h3 hdata => ?_, fun w w' hop h1 h2 h3 h5 => ?_, fun w w' hw hw' hlen hd => ?_,
    fun len d d' s hd => congrArg _ (absorb_congr_data Config.hardware s hd)⟩
  · rw [hop] at h3
    simp only [decode, hop, hdata, if_neg h3]
  · rw [hop] at h1 h2 h3 h5
    simp only [decode, hop, if_neg h1, if_neg h2, if_neg h3, if_neg h5]
  · rw [decode_of_op_absorb hw, decode_of_op_absorb hw', keepBytes_congr hd, hlen]

/-- Settles O12: six words of 144 bits, each computed. -/
theorem sampleWordsDecode : Obligations.SampleWordsDecode := by
  unfold Obligations.SampleWordsDecode
  decide

end Sys2Proof.Machine
end

section
/-! PROOFS about the invariants I1 to I8 of R35: at reset, over a step and along a run. -/

namespace Sys2Proof.Machine

/-! ### The two invariants the types carry (I2, I8) -/

theorem toNat_bufLenBits (s : State) : (bufLenBits s).toNat = s.bufLen.val := by
  have h := s.bufLen.isLt
  rw [bufLenBits, BitVec.toNat_ofNat, Nat.mod_eq_of_lt (by omega)]

theorem bufLenBits_le (s : State) : (bufLenBits s).toNat ≤ 16 := by
  rw [toNat_bufLenBits]
  exact Nat.le_of_lt_succ s.bufLen.isLt

theorem errBits_le (c : ErrCode) : (errBits c).toNat ≤ 4 := by
  cases c <;> decide

/-! ### What each write keeps -/

namespace Inv

variable {cfg : Config} {s : State}

/-- The samples still to come have no part in the invariants. -/
theorem withInputs (hs : Inv cfg s) (r : List HostInput) : Inv cfg { s with inputs := r } :=
  ⟨hs.activeHasKey, hs.bufLenAtMost16, hs.bufZeroBeyond, hs.subkeysOfKey, hs.inactiveEmpty, hs.noKeyZero, hs.noDataZero,
    hs.errAtMost4⟩

theorem clear (cfg : Config) (s : State) : Inv cfg s.clear where
  activeHasKey h := absurd h Bool.false_ne_true
  bufLenAtMost16 := bufLenBits_le _
  bufZeroBeyond i _ _ := byte_zero i
  subkeysOfKey h := absurd h Bool.false_ne_true
  inactiveEmpty _ := ⟨rfl, rfl⟩
  noKeyZero _ := ⟨rfl, rfl, rfl⟩
  noDataZero _ := rfl
  errAtMost4 := errBits_le _

theorem raise (hs : Inv cfg s) (c : ErrCode) : Inv cfg (s.raise c) :=
  ⟨hs.activeHasKey, hs.bufLenAtMost16, hs.bufZeroBeyond, hs.subkeysOfKey, hs.inactiveEmpty, hs.noKeyZero, hs.noDataZero,
    errBits_le c⟩

theorem deliver (hs : Inv cfg s) (v : Block) : Inv cfg (deliver v s) :=
  ⟨hs.activeHasKey, hs.bufLenAtMost16, hs.bufZeroBeyond, hs.subkeysOfKey, hs.inactiveEmpty, hs.noKeyZero,
    fun h => absurd h.symm Bool.false_ne_true, hs.errAtMost4⟩

/-- LOADKEY stores the subkeys of the key it stores (I4). -/
theorem storeKey (hs : Inv cfg s) (key : Block) : Inv cfg (storeKey (newKeyMaterial cfg key) s) :=
  ⟨fun _ => rfl, hs.bufLenAtMost16, hs.bufZeroBeyond, fun _ => ⟨rfl, rfl⟩, hs.inactiveEmpty,
    fun h => absurd h.symm Bool.false_ne_true, hs.noDataZero, hs.errAtMost4⟩

theorem beginMessage (hs : Inv cfg s) (hk : s.kv = true) (iv : Block) : Inv cfg (beginMessage iv s) :=
  ⟨fun _ => hk, bufLenBits_le _, fun i _ _ => byte_zero i, hs.subkeysOfKey, fun h => absurd h.symm Bool.false_ne_true,
    hs.noKeyZero, hs.noDataZero, hs.errAtMost4⟩

theorem endMessage (hs : Inv cfg s) (tag : Block) : Inv cfg (endMessage tag s) :=
  ⟨fun h => absurd h Bool.false_ne_true, bufLenBits_le _, fun i _ _ => byte_zero i, hs.subkeysOfKey,
    fun _ => ⟨rfl, rfl⟩, hs.noKeyZero, fun h => absurd h.symm Bool.false_ne_true, hs.errAtMost4⟩

end Inv

/-- I3 over a beat, byte by byte. -/
theorem ZeroBeyondBufLen.absorbBytes {s : State} (hs : ZeroBeyondBufLen s) (cfg : Config) (l : List Byte) :
    ZeroBeyondBufLen (absorbBytes cfg s l) := by
  induction l generalizing s with
  | nil => exact hs
  | cons b l ih => exact ih (hs.absorbByte cfg b)

/-- In a message a beat writes `CV`, `BUF` and `BUFLEN`, of which I2 and I3 alone speak. -/
theorem Inv.absorbBytes {cfg : Config} {s : State} (hs : Inv cfg s) (hm : s.ma = true) (l : List Byte) :
    Inv cfg (absorbBytes cfg s l) := by
  obtain ⟨hkey, hk1, hk2, hdout, hkv, hma, hdv, -, -⟩ := absorbBytes_frame cfg l s
  refine ⟨?_, bufLenBits_le _, ZeroBeyondBufLen.absorbBytes hs.bufZeroBeyond cfg l, ?_, ?_, ?_, ?_, errBits_le _⟩
  · rw [hma, hkv]; exact hs.activeHasKey
  · rw [hkv, hkey, hk1, hk2]; exact hs.subkeysOfKey
  · rw [hma, hm]; exact fun h => absurd h.symm Bool.false_ne_true
  · rw [hkv, hkey, hk1, hk2]; exact hs.noKeyZero
  · rw [hdv, hdout]; exact hs.noDataZero

/-! ### Commands and steps -/

/-- The checks a keyed command makes first keep the invariants. -/
theorem Inv.keyed {cfg : Config} {s t : State} (hs : Inv cfg s) (ht : s.kv = true → Inv cfg t) :
    Inv cfg (ignoreInFault s (needKey s t)) :=
  ignoreInFault_rule (fun _ => hs) fun _ => needKey_rule (fun _ => hs.raise _) ht

theorem Inv.commandEffect {cfg : Config} {s : State} (hs : Inv cfg s) (i : Instr) :
    Inv cfg (commandEffect cfg i s) := by
  cases i with
  | nop => exact hs
  | loadkey key =>
    exact ignoreInFault_rule (fun _ => hs) fun _ => needNoMessage_rule (fun _ => hs.raise _) fun _ => hs.storeKey key
  | init iv => exact hs.keyed fun hk => hs.beginMessage hk iv
  | absorb len data =>
    exact hs.keyed fun _ => needMessage_rule (fun _ => hs.raise _) fun hm =>
      needLength_rule (fun _ => hs.raise _) fun _ => hs.absorbBytes hm _
  | final => exact hs.keyed fun _ => needMessage_rule (fun _ => hs.raise _) fun _ => hs.endMessage _
  | enc block => exact hs.keyed fun _ => hs.deliver _
  | rdkey => exact hs.keyed fun _ => hs.deliver _
  | rdk1 => exact hs.keyed fun _ => hs.deliver _
  | rdk2 => exact hs.keyed fun _ => hs.deliver _
  | clr => exact Inv.clear cfg s

/-- Settles O54: a step does nothing, resets, executes a command or answers a reserved opcode, and each keeps the
invariants whatever samples are left. -/
theorem everyStepKeepsInvariants : Obligations.EveryStepKeepsInvariants := by
  intro s t hs h
  obtain ⟨-, rfl⟩ | ⟨p, rest, -, ⟨-, rfl⟩ | ⟨-, rfl⟩ | ⟨w, i, -, -, hexec⟩ | ⟨w, e, -, -, hres⟩⟩ := step_cases h
  · exact hs
  · exact hs.withInputs rest
  · exact Inv.clear _ { s with inputs := rest }
  · rw [eq_commandEffect_of_exec hexec]
    exact (hs.withInputs rest).commandEffect i
  · injection hres with hres
    exact hres ▸ ignoreInFault_rule (fun _ => hs.withInputs rest) fun _ => (hs.withInputs rest).raise _

/-- Settles O53: the reset state is a cleared state. -/
theorem invariantsHoldAtReset : Obligations.InvariantsHoldAtReset :=
  Inv.clear _ State.reset

/-- Settles O55: they hold at reset, whatever samples are to come, and every step keeps them. -/
theorem invariantsHoldOfEveryReachableState : Obligations.InvariantsHoldOfEveryReachableState :=
  fun n driven _ h => run_keeps everyStepKeepsInvariants n (invariantsHoldAtReset.withInputs driven) h

end Sys2Proof.Machine
end

section
/-! PROOFS about what a host cannot observe (R186): states that agree on all but dead registers stay so. -/

namespace Sys2Proof.Machine

namespace SameForHost

variable {s t s' t' : State}

theorem refl (s : State) : SameForHost s s :=
  ⟨rfl, rfl, rfl, rfl, rfl, rfl, rfl, fun _ => ⟨rfl, rfl, rfl⟩, fun _ => ⟨rfl, rfl⟩⟩

/-- The ports show no register that can be dead (R32, R37). -/
theorem outputs_eq (h : SameForHost s t) : outputs s = outputs t := by
  simp only [outputs, status, bufLenBits, faultFlag, h.kv, h.ma, h.dv, h.err, h.bufLen, h.dout]

/-- With a key and a message in progress no register is dead. -/
theorem eq_of_active (h : SameForHost s t) (hk : s.kv = true) (hm : s.ma = true) : s = t := by
  obtain ⟨hkv, hma, hdv, herr, hlen, hdout, hin, hkey, hmsg⟩ := h
  obtain ⟨hk0, hk1, hk2⟩ := hkey hk
  obtain ⟨hcv, hbuf⟩ := hmsg hm
  cases s
  cases t
  simp only at *
  subst hkv hma hdv herr hlen hdout hin hk0 hk1 hk2 hcv hbuf
  rfl

/-! ### The writes -/

theorem withInputs (h : SameForHost s t) (r : List HostInput) :
    SameForHost { s with inputs := r } { t with inputs := r } :=
  ⟨h.kv, h.ma, h.dv, h.err, h.bufLen, h.dout, rfl, h.keyMaterial, h.message⟩

theorem raise (h : SameForHost s t) (c : ErrCode) : SameForHost (s.raise c) (t.raise c) :=
  ⟨h.kv, h.ma, h.dv, rfl, h.bufLen, h.dout, h.inputs, h.keyMaterial, h.message⟩

theorem clear (h : SameForHost s t) : SameForHost s.clear t.clear :=
  ⟨rfl, rfl, rfl, rfl, rfl, rfl, h.inputs, fun _ => ⟨rfl, rfl, rfl⟩, fun _ => ⟨rfl, rfl⟩⟩

/-- LOADKEY writes the three registers before `KV` makes them live. -/
theorem storeKey (h : SameForHost s t) (km : KeyMaterial) : SameForHost (storeKey km s) (storeKey km t) :=
  ⟨rfl, h.ma, h.dv, h.err, h.bufLen, h.dout, h.inputs, fun _ => ⟨rfl, rfl, rfl⟩, h.message⟩

/-- INIT writes `CV` and `BUF` before `MA` makes them live. -/
theorem beginMessage (h : SameForHost s t) (iv : Block) : SameForHost (beginMessage iv s) (beginMessage iv t) :=
  ⟨h.kv, rfl, h.dv, h.err, rfl, h.dout, h.inputs, h.keyMaterial, fun _ => ⟨rfl, rfl⟩⟩

theorem deliver (h : SameForHost s t) {v w : Block} (hvw : v = w) : SameForHost (deliver v s) (deliver w t) :=
  ⟨h.kv, h.ma, rfl, h.err, h.bufLen, hvw, h.inputs, h.keyMaterial, h.message⟩

/-! ### The checks: they read flags that are alike, so both states take the same branch -/

theorem ignoreInFault (h : SameForHost s t) (h' : SameForHost s' t') :
    SameForHost (ignoreInFault s s') (ignoreInFault t t') := by
  by_cases he : s.err = .none
  · rwa [ignoreInFault_of_none he, ignoreInFault_of_none (h.err ▸ he)]
  · rwa [ignoreInFault_of_fault he, ignoreInFault_of_fault (h.err ▸ he)]

theorem needKey (h : SameForHost s t) (h' : s.kv = true → SameForHost s' t') :
    SameForHost (needKey s s') (needKey t t') := by
  cases hk : s.kv with
  | false => rw [needKey_of_noKey hk, needKey_of_noKey (h.kv ▸ hk)]; exact h.raise _
  | true => rw [needKey_of_key hk, needKey_of_key (h.kv ▸ hk)]; exact h' hk

theorem needNoMessage (h : SameForHost s t) (h' : SameForHost s' t') :
    SameForHost (needNoMessage s s') (needNoMessage t t') := by
  cases hm : s.ma with
  | false => rwa [needNoMessage_of_inactive hm, needNoMessage_of_inactive (h.ma ▸ hm)]
  | true => rw [needNoMessage_of_active hm, needNoMessage_of_active (h.ma ▸ hm)]; exact h.raise _

theorem needMessage (h : SameForHost s t) (h' : s.ma = true → SameForHost s' t') :
    SameForHost (needMessage s s') (needMessage t t') := by
  cases hm : s.ma with
  | false => rw [needMessage_of_inactive hm, needMessage_of_inactive (h.ma ▸ hm)]; exact h.raise _
  | true => rw [needMessage_of_active hm, needMessage_of_active (h.ma ▸ hm)]; exact h' hm

/-- The checks a keyed command makes first. -/
theorem keyed (h : SameForHost s t) (h' : s.kv = true → SameForHost s' t') :
    SameForHost (Machine.ignoreInFault s (Machine.needKey s s')) (Machine.ignoreInFault t (Machine.needKey t t')) :=
  h.ignoreInFault (h.needKey h')

/-! ### Commands -/

/-- A command reads the key registers with `KV = 1` only, and `CV` and `BUF` with `MA = 1` too. -/
theorem commandEffect (h : SameForHost s t) (cfg : Config) (i : Instr) :
    SameForHost (commandEffect cfg i s) (commandEffect cfg i t) := by
  cases i with
  | nop => exact h
  | loadkey key => exact h.ignoreInFault (h.needNoMessage (h.storeKey _))
  | init iv => exact h.keyed fun _ => h.beginMessage iv
  | absorb len data => exact h.keyed fun hk => h.needMessage fun hm => h.eq_of_active hk hm ▸ refl _
  | final => exact h.keyed fun hk => h.needMessage fun hm => h.eq_of_active hk hm ▸ refl _
  | enc block => exact h.keyed fun hk => h.deliver (congrArg (cfg.encrypt · block) (h.keyMaterial hk).1)
  | rdkey => exact h.keyed fun hk => h.deliver (h.keyMaterial hk).1
  | rdk1 => exact h.keyed fun hk => h.deliver (h.keyMaterial hk).2.1
  | rdk2 => exact h.keyed fun hk => h.deliver (h.keyMaterial hk).2.2
  | clr => exact h.clear

end SameForHost

/-! ### Steps -/

/-- What an event of the ports makes of two such states. -/
theorem SameForHost.handle {s t s' t' : State} (h : SameForHost s t) {e : PortEvent} (hs : handle e s = .next s')
    (ht : handle e t = .next t') : SameForHost s' t' := by
  cases e with
  | idle =>
    injection hs with hs
    injection ht with ht
    exact hs ▸ ht ▸ h
  | reset =>
    injection hs with hs
    injection ht with ht
    exact hs ▸ ht ▸ h.clear
  | command w =>
    rw [handle_command] at hs ht
    cases hd : decode w with
    | ok i =>
      rw [acceptWord_of_ok hd] at hs ht
      obtain rfl := eq_commandEffect_of_exec hs
      obtain rfl := eq_commandEffect_of_exec ht
      exact h.commandEffect _ i
    | error e =>
      rw [acceptWord_of_error hd] at hs ht
      injection hs with hs
      injection ht with ht
      exact hs ▸ ht ▸ h.ignoreInFault (h.raise _)

theorem SameForHost.step {s t s' t' : State} (h : SameForHost s t) (hs : step s = .next s') (ht : step t = .next t') :
    SameForHost s' t' := by
  cases hi : s.inputs with
  | nil =>
    rw [step_nil hi] at hs
    rw [step_nil (h.inputs ▸ hi)] at ht
    injection hs with hs
    injection ht with ht
    exact hs ▸ ht ▸ h
  | cons p rest =>
    rw [step_cons hi] at hs
    rw [step_cons (h.inputs ▸ hi)] at ht
    exact (h.withInputs rest).handle hs ht

/-- Settles O56: both states are asked the same by their samples and by the same checks, and what a command reads is
alike in both. -/
theorem deadRegistersAreUnobservable : Obligations.DeadRegistersAreUnobservable := by
  intro s t s' t' h hs ht
  have h' := h.step hs ht
  exact ⟨h', h'.outputs_eq⟩

end Sys2Proof.Machine
end

section
/-! PROOFS about single steps and what a command writes: the handshake (R65), the accepted word (R62), the writers of
each register, the status word (R32) and the phase table (R152). -/

namespace Sys2Proof.Machine

/-! ### The handshake -/

/-- Settles O3: an empty list of samples and an idle sample are the two ways to accept nothing. -/
theorem nothingAcceptedChangesNothing : Obligations.NothingAcceptedChangesNothing :=
  ⟨rfl, fun _ => step_nil, fun _ _ _ => step_of_idle⟩

/-- Settles O4: a sample with `cmd_valid` and without `rst` presents its word, which is executed if it decodes. -/
theorem stepRunsDecodedCommand : Obligations.StepRunsDecodedCommand := by
  intro s p rest i hi hr hv hd
  rw [step_cons hi, portEvent_of_valid hr hv, handle_command, acceptWord_of_ok hd]

/-- Settles O6: there is an answer to no sample, to each event and to each word. -/
theorem everyStepCompletes : Obligations.EveryStepCompletes := exists_step_next

/-! ### The writers of each register -/

/-- What neither a fault nor the writes of a command change, the command does not change. -/
theorem commandEffect_keeps {α : Type} (f : State → α) (hraise : ∀ (s : State) (c : ErrCode), f (s.raise c) = f s)
    {cfg : Config} {i : Instr} {s : State} (hwrites : f (commandWrites cfg i s) = f s) :
    f (commandEffect cfg i s) = f s := by
  rw [commandEffect_eq_outcome]
  cases verdict i s with
  | execute => exact hwrites
  | ignore => rfl
  | fault c => exact hraise s c

/-- The registers of a message, `CV`, `BUF` and `BUFLEN`. -/
def messageRegisters (s : State) : Block × Block × Fin 17 := (s.cv, s.buf, s.bufLen)

/-- The result register and its flag. -/
def resultRegisters (s : State) : Block × Bool := (s.dout, s.dv)

/-- The KeyMaterial and its flag. -/
def keyRegisters (s : State) : Block × Block × Block × Bool := (s.key, s.k1, s.k2, s.kv)

theorem messageRegisters_ne_iff {s t : State} : messageRegisters t ≠ messageRegisters s ↔
    t.cv ≠ s.cv ∨ t.buf ≠ s.buf ∨ t.bufLen ≠ s.bufLen := by
  simp only [messageRegisters, ne_eq, Prod.mk.injEq, not_and_or]

theorem resultRegisters_ne_iff {s t : State} : resultRegisters t ≠ resultRegisters s ↔
    t.dout ≠ s.dout ∨ t.dv ≠ s.dv := by
  simp only [resultRegisters, ne_eq, Prod.mk.injEq, not_and_or]

theorem keyRegisters_ne_iff {s t : State} : keyRegisters t ≠ keyRegisters s ↔
    t.key ≠ s.key ∨ t.k1 ≠ s.k1 ∨ t.k2 ≠ s.k2 ∨ t.kv ≠ s.kv := by
  simp only [keyRegisters, ne_eq, Prod.mk.injEq, not_and_or]

section
variable (cfg : Config) (i : Instr) (s : State)

theorem messageRegisters_writers (h : messageRegisters (commandEffect cfg i s) ≠ messageRegisters s) :
    (∃ v, i = .init v) ∨ (∃ n d, i = .absorb n d) ∨ i = .final ∨ i = .clr := by
  cases i with
  | init iv => exact .inl ⟨iv, rfl⟩
  | absorb len data => exact .inr (.inl ⟨len, data, rfl⟩)
  | final => exact .inr (.inr (.inl rfl))
  | clr => exact .inr (.inr (.inr rfl))
  | _ => exact absurd (commandEffect_keeps messageRegisters (fun _ _ => rfl) rfl) h

theorem resultRegisters_writers (h : resultRegisters (commandEffect cfg i s) ≠ resultRegisters s) :
    i = .final ∨ (∃ b, i = .enc b) ∨ i = .rdkey ∨ i = .rdk1 ∨ i = .rdk2 ∨ i = .clr := by
  cases i with
  | final => exact .inl rfl
  | enc block => exact .inr (.inl ⟨block, rfl⟩)
  | rdkey => exact .inr (.inr (.inl rfl))
  | rdk1 => exact .inr (.inr (.inr (.inl rfl)))
  | rdk2 => exact .inr (.inr (.inr (.inr (.inl rfl))))
  | clr => exact .inr (.inr (.inr (.inr (.inr rfl))))
  | absorb len data =>
    obtain ⟨-, -, -, hdout, -, -, hdv, -, -⟩ := absorbBytes_frame cfg (messageBytes len.toNat data) s
    have hwrites : resultRegisters (commandWrites cfg (.absorb len data) s) = resultRegisters s := Prod.ext hdout hdv
    exact absurd (commandEffect_keeps resultRegisters (fun _ _ => rfl) hwrites) h
  | _ => exact absurd (commandEffect_keeps resultRegisters (fun _ _ => rfl) rfl) h

theorem keyRegisters_writers (h : keyRegisters (commandEffect cfg i s) ≠ keyRegisters s) :
    (∃ k, i = .loadkey k) ∨ i = .clr := by
  obtain ⟨hkey, hk1, hk2, hkv⟩ | rfl | ⟨k, rfl, -⟩ := commandEffect_key_cases cfg i s
  · exact absurd (by rw [keyRegisters, hkey, hk1, hk2, hkv, keyRegisters]) h
  · exact .inr rfl
  · exact .inl ⟨k, rfl⟩

theorem ma_writers (h : (commandEffect cfg i s).ma ≠ s.ma) : (∃ v, i = .init v) ∨ i = .final ∨ i = .clr := by
  cases i with
  | init iv => exact .inl ⟨iv, rfl⟩
  | final => exact .inr (.inl rfl)
  | clr => exact .inr (.inr rfl)
  | absorb len data =>
    obtain ⟨-, -, -, -, -, hma, -, -, -⟩ := absorbBytes_frame cfg (messageBytes len.toNat data) s
    have hwrites : (commandWrites cfg (.absorb len data) s).ma = s.ma := hma
    exact absurd (commandEffect_keeps State.ma (fun _ _ => rfl) hwrites) h
  | _ => exact absurd (commandEffect_keeps State.ma (fun _ _ => rfl) rfl) h

/-- `ERR` is changed by CLR, and by a fault recorded where none was, which changes nothing else (R163). -/
theorem err_writers (h : (commandEffect cfg i s).err ≠ s.err) : i = .clr ∨
    (s.err = .none ∧ commandEffect cfg i s = { s with err := (commandEffect cfg i s).err }) := by
  by_cases he : s.err = .none
  · exact .inr ⟨he, commandEffect_eq_raise cfg he (he ▸ h)⟩
  · by_cases hi : i = .clr
    · exact .inl hi
    · exact absurd (congrArg State.err (commandEffect_of_fault cfg he hi)) h

theorem commandEffect_inputs : (commandEffect cfg i s).inputs = s.inputs := by
  refine commandEffect_keeps State.inputs (fun _ _ => rfl) ?_
  cases i with
  | absorb len data =>
    obtain ⟨-, -, -, -, -, -, -, -, hin⟩ := absorbBytes_frame cfg (messageBytes len.toNat data) s
    exact hin
  | _ => rfl

end

/-- Settles O29: the columns of the table of writers, each a group of registers. -/
theorem registersHaveTheirWritersOnly : Obligations.RegistersHaveTheirWritersOnly := by
  intro i s t h
  obtain rfl := eq_commandEffect_of_exec h
  exact ⟨fun h => messageRegisters_writers _ i s (messageRegisters_ne_iff.mpr h),
    fun h => resultRegisters_writers _ i s (resultRegisters_ne_iff.mpr h),
    fun h => keyRegisters_writers _ i s (keyRegisters_ne_iff.mpr h), ma_writers _ i s, err_writers _ i s,
    commandEffect_inputs _ i s⟩

/-! ### The status word -/

theorem status_keyValid (s : State) : (status s).getLsbD 0 = s.kv := by
  simp only [status, BitVec.getLsbD_append]
  simp

theorem status_messageActive (s : State) : (status s).getLsbD 1 = s.ma := by
  simp only [status, BitVec.getLsbD_append]
  simp

theorem status_dataValid (s : State) : (status s).getLsbD 2 = s.dv := by
  simp only [status, BitVec.getLsbD_append]
  simp

theorem status_bit7 (s : State) : (status s).getLsbD 7 = false := by
  simp only [status, BitVec.getLsbD_append]
  simp

theorem status_bufLenField (s : State) : (status s).extractLsb' 8 5 = bufLenBits s := by
  apply BitVec.eq_of_getLsbD_eq
  intro j hj
  simp only [status, BitVec.getLsbD_extractLsb', BitVec.getLsbD_append]
  have hlow : ¬ 8 + j < 1 := by omega
  have herr : ¬ 4 + j < 3 := by omega
  have hoff : 4 + j - 3 - 1 = j := by omega
  have hbit7 : 4 + j - 3 ≠ 0 := by omega
  simp [hlow, herr, hoff, hbit7, hj]

theorem status_topBits (s : State) : (status s).extractLsb' 13 3 = 0#3 := by
  apply BitVec.eq_of_getLsbD_eq
  intro j hj
  simp only [status, BitVec.getLsbD_extractLsb', BitVec.getLsbD_append]
  have hlow : ¬ 13 + j < 1 := by omega
  have herr : ¬ 9 + j < 3 := by omega
  have hlen : ¬ 9 + j - 3 - 1 < 5 := by omega
  simp [hlow, herr, hlen]

/-- FLT is set exactly if the ERR field is not zero. -/
theorem faultFlag_iff (s : State) : faultFlag s = true ↔ errBits s.err ≠ 0#3 := by
  rw [faultFlag]
  cases s.err <;> decide

/-- Settles O30: each field is read off the concatenation; the word after reset is computed. -/
theorem statusWordFields : Obligations.StatusWordFields := by
  refine ⟨fun s => ⟨status_keyValid s, status_messageActive s, status_dataValid s, ?_, status_errField s,
    status_bit7 s, ?_, status_topBits s, errBits_le s.err, rfl⟩, by decide⟩
  · rw [status_fltBit, faultFlag_iff]
  · rw [status_bufLenField, toNat_bufLenBits]

/-! ### FINAL -/

section
variable (cfg : Config) {s : State}

theorem final_of_fault (he : s.err ≠ .none) : final cfg s = s := ignoreInFault_of_fault he

theorem final_of_noKey (he : s.err = .none) (hk : s.kv = false) : final cfg s = s.raise .noKey := keyed_of_noKey he hk

theorem final_of_inactive (he : s.err = .none) (hk : s.kv = true) (hm : s.ma = false) :
    final cfg s = s.raise .sequence :=
  (keyed_of_key he hk).trans (needMessage_of_inactive hm)

theorem final_of_active (he : s.err = .none) (hk : s.kv = true) (hm : s.ma = true) :
    final cfg s = endMessage (cfg.encrypt s.key (s.cv ^^^ finalBlock s)) s :=
  (keyed_of_key he hk).trans (needMessage_of_active hm)

end

/-- The last block with R135's condition on the count as a number. -/
theorem finalBlock_eq_ite (s : State) : finalBlock s =
    if s.bufLen.val = 16 then s.buf ^^^ s.k1 else pad s.buf s.bufLen.val ^^^ s.k2 :=
  if_congr Fin.ext_iff rfl rfl

/-- Settles O20: R135's three checks leave four cases, and in the last the tag is delivered and the message closed. -/
theorem finalDeliversTag : Obligations.FinalDeliversTag := by
  refine ⟨fun w => decode_of_op_final, fun s =>
    ⟨fun he => ?_, fun he hk => ?_, fun he hk hm => ?_, fun he hk hm => ?_⟩⟩
  · rw [exec_final, final_of_fault _ he]
  · rw [exec_final, final_of_noKey _ he hk, State.raise]
  · rw [exec_final, final_of_inactive _ he hk hm, State.raise]
  · rw [exec_final, final_of_active _ he hk hm, finalBlock_eq_ite]
    exact ⟨_, rfl, rfl, rfl⟩

/-! ### The phase table -/

section
variable {s : State}

theorem phase_of_fault (he : s.err ≠ .none) : phase s = .fault := by simp [phase, he]

theorem phase_of_idle (he : s.err = .none) (hk : s.kv = true) (hm : s.ma = false) : phase s = .idle := by
  simp [phase, he, hk, hm]

theorem phase_of_active (he : s.err = .none) (hk : s.kv = true) (hm : s.ma = true) : phase s = .active := by
  simp [phase, he, hk, hm]

theorem phase_raise {c : ErrCode} (hc : c ≠ .none) : phase (s.raise c) = .fault := phase_of_fault hc

end

/-- The row of ENC and the key reads: a delivery changes no flag the phase depends on. -/
theorem phase_keyed_deliver (v : Block) (s : State) :
    phase (ignoreInFault s (needKey s (deliver v s))) = phaseAfterKeyed (phase s) := by
  obtain ⟨he, hp⟩ | ⟨he, hk, hp⟩ | ⟨he, hk, hm, hp⟩ | ⟨he, hk, hm, hp⟩ := phase_cases s
  · rw [ignoreInFault_of_fault he, hp]; rfl
  · rw [keyed_of_noKey he hk, phase_raise (by decide), hp]; rfl
  · rw [keyed_of_key he hk, hp]; exact hp
  · rw [keyed_of_key he hk, hp]; exact hp

section
variable (cfg : Config) (s : State)

theorem phase_loadkey (hI1 : s.ma = true → s.kv = true) (key : Block) :
    phase (loadkey cfg key s) = phaseAfter (.loadkey key) (phase s) := by
  obtain ⟨he, hp⟩ | ⟨he, hk, hp⟩ | ⟨he, hk, hm, hp⟩ | ⟨he, hk, hm, hp⟩ := phase_cases s
  · rw [loadkey_of_fault cfg key he, hp]; rfl
  · have hm : s.ma = false := Bool.eq_false_iff.mpr fun hm => Bool.eq_false_iff.mp hk (hI1 hm)
    rw [loadkey_of_inactive cfg key he hm, hp]
    exact phase_of_idle he rfl hm
  · rw [loadkey_of_inactive cfg key he hm, hp]
    exact phase_of_idle he rfl hm
  · rw [loadkey_of_active cfg key he hm, phase_raise (by decide), hp]; rfl

theorem phase_init (iv : Block) : phase (init iv s) = phaseAfter (.init iv) (phase s) := by
  obtain ⟨he, hp⟩ | ⟨he, hk, hp⟩ | ⟨he, hk, hm, hp⟩ | ⟨he, hk, hm, hp⟩ := phase_cases s
  · rw [init_of_fault iv he, hp]; rfl
  · rw [init_of_noKey iv he hk, phase_raise (by decide), hp]; rfl
  · rw [init_of_key iv he hk, hp]
    exact phase_of_active he hk rfl
  · rw [init_of_key iv he hk, hp]
    exact phase_of_active he hk rfl

theorem phase_absorb (len : Byte) (d : Block) : phase (absorb cfg len d s) = phaseAfter (.absorb len d) (phase s) := by
  obtain ⟨he, hp⟩ | ⟨he, hk, hp⟩ | ⟨he, hk, hm, hp⟩ | ⟨he, hk, hm, hp⟩ := phase_cases s
  · rw [absorb_of_fault cfg d he, hp]; rfl
  · rw [absorb_of_noKey cfg d he hk, phase_raise (by decide), hp]; rfl
  · rw [absorb_of_inactive cfg d he hk hm, phase_raise (by decide), hp]; rfl
  · by_cases hl : len.toNat ≤ 16
    · obtain ⟨-, -, -, -, hkv, hma, -, herr, -⟩ := absorbBytes_frame cfg (messageBytes len.toNat d) s
      rw [absorb_of_legal cfg d he hk hm hl, hp, phase_of_active (herr.trans he) (hkv.trans hk) (hma.trans hm)]
      exact (if_pos hl).symm
    · rw [absorb_of_overLong cfg d he hk hm (by omega), phase_raise (by decide), hp]
      exact (if_neg hl).symm

theorem phase_final : phase (final cfg s) = phaseAfter .final (phase s) := by
  obtain ⟨he, hp⟩ | ⟨he, hk, hp⟩ | ⟨he, hk, hm, hp⟩ | ⟨he, hk, hm, hp⟩ := phase_cases s
  · rw [final_of_fault cfg he, hp]; rfl
  · rw [final_of_noKey cfg he hk, phase_raise (by decide), hp]; rfl
  · rw [final_of_inactive cfg he hk hm, phase_raise (by decide), hp]; rfl
  · rw [final_of_active cfg he hk hm, hp]
    exact phase_of_idle he hk rfl

theorem phase_commandEffect (hI1 : s.ma = true → s.kv = true) (i : Instr) :
    phase (commandEffect cfg i s) = phaseAfter i (phase s) := by
  cases i with
  | nop => rfl
  | loadkey key => exact phase_loadkey cfg s hI1 key
  | init iv => exact phase_init s iv
  | absorb len d => exact phase_absorb cfg s len d
  | final => exact phase_final cfg s
  | enc block => exact phase_keyed_deliver _ s
  | rdkey => exact phase_keyed_deliver _ s
  | rdk1 => exact phase_keyed_deliver _ s
  | rdk2 => exact phase_keyed_deliver _ s
  | clr => exact phase_clear s

end

/-- Settles O32: the table row by row, each over the four phases; a reserved word is ignored in FAULT or records a
fault. -/
theorem phaseTransitionTable : Obligations.PhaseTransitionTable := by
  refine ⟨fun i s t hI1 h => ?_, fun s t w rest hi hop h => ?_⟩
  · rw [eq_commandEffect_of_exec h]
    exact phase_commandEffect _ s hI1 i
  · by_cases he : s.err = .none
    · rw [step_of_reserved_of_none hi hop he] at h
      injection h with h
      exact h ▸ phase_raise (s := { s with inputs := rest }) (by decide)
    · rw [step_of_reserved_of_fault hi hop he] at h
      injection h with h
      exact h ▸ phase_of_fault he

end Sys2Proof.Machine
end

section
/-! PROOFS about the cipher (R93 to R100): the S-box, the key schedule, and AES-128 as a permutation. -/

namespace Sys2Proof.Machine

/-! ### The S-box (R93) -/

/-- The inverse of R93's affine map. -/
def affineInverse (v : Byte) : Byte := v.rotateLeft 1 ^^^ v.rotateLeft 3 ^^^ v.rotateLeft 6 ^^^ 0x05#8

theorem affine_affineInverse : ∀ v : Byte, v = affineInverse v ^^^ (affineInverse v).rotateLeft 1 ^^^
    (affineInverse v).rotateLeft 2 ^^^ (affineInverse v).rotateLeft 3 ^^^ (affineInverse v).rotateLeft 4 ^^^
    0x63#8 := by
  decide +kernel

/-- Before the affine map the S-box holds zero for zero and the inverse of every other byte. -/
theorem affineInverse_sbox : ∀ a : Byte, (a = 0#8 → affineInverse (sbox a) = 0#8) ∧
    (a ≠ 0#8 → gfMul a (affineInverse (sbox a)) = 1#8) := by
  decide +kernel

/-- The 256 entries of the inverse table, entry `0x00` first. -/
def invSboxTable : BitVec 2048 :=
  0x52096ad53036a538bf40a39e81f3d7fb7ce339829b2fff87348e4344c4dee9cb547b9432a6c2233dee4c950b42fac34e082ea16628d924b2765ba2496d8bd12572f8f66486689816d4a45ccc5d65b6926c704850fdedb9da5e154657a78d9d8490d8ab008cbcd30af7e45805b8b34506d02c1e8fca3f0f02c1afbd0301138a6b3a9111414f67dcea97f2cfcef0b4e67396ac7422e7ad3585e2f937e81c75df6e47f11a711d29c5896fb7620eaa18be1bfc563e4bc6d279209adbc0fe78cd5af41fdda8338807c731b11210592780ec5f60517fa919b54a0d2de57a9f93c99cefa0e03b4dae2af5b0c8ebbb3c83539961172b047eba77d626e169146355210c7d#2048

/-- The inverse of `SBOX`, by table. -/
def invSbox (a : Byte) : Byte := invSboxTable.extractLsb' (2040 - 8 * a.toNat) 8

theorem invSbox_sbox : ∀ a : Byte, invSbox (sbox a) = a := by
  decide +kernel

theorem sbox_injective : Function.Injective sbox := Function.LeftInverse.injective invSbox_sbox

/-- Settles O41: the table has an inverse table, and undoing the affine map leaves the inverse of the byte; both are
checked byte by byte. -/
theorem sboxIsInverseThenAffine : Obligations.SboxIsInverseThenAffine := by
  refine ⟨Finite.injective_iff_bijective.mp sbox_injective, fun a => ⟨affineInverse (sbox a), ?_, ?_, ?_⟩⟩
  · exact (affineInverse_sbox a).1
  · exact (affineInverse_sbox a).2
  · exact affine_affineInverse (sbox a)

/-! ### The key schedule (R98, R99) -/

/-- A word of a round key is its four bytes (R91). -/
theorem wordOf_eq_bytes (v : Block) {c : Nat} (h : c ≤ 3) :
    wordOf v c = byte v (4 * c) ++ byte v (4 * c + 1) ++ byte v (4 * c + 2) ++ byte v (4 * c + 3) := by
  have h01 : 120 - 8 * (4 * c) = 120 - 8 * (4 * c + 1) + 8 := by omega
  have h12 : 120 - 8 * (4 * c + 1) = 120 - 8 * (4 * c + 2) + 8 := by omega
  have h23 : 120 - 8 * (4 * c + 2) = 120 - 8 * (4 * c + 3) + 8 := by omega
  have hword : 120 - 8 * (4 * c + 3) = 96 - 32 * c := by omega
  rw [byte, byte, BitVec.extractLsb'_append_extractLsb'_eq_extractLsb' h01, byte,
    BitVec.extractLsb'_append_extractLsb'_eq_extractLsb' h12, byte,
    BitVec.extractLsb'_append_extractLsb'_eq_extractLsb' h23, hword, wordOf]

section
variable (w0 w1 w2 w3 : Word32)

theorem wordOf_append_zero : wordOf (w0 ++ w1 ++ w2 ++ w3) 0 = w0 := by
  rw [wordOf, BitVec.extractLsb'_append_eq_of_le (by decide), BitVec.extractLsb'_append_eq_of_le (by decide)]
  exact BitVec.extractLsb'_append_eq_left

theorem wordOf_append_one : wordOf (w0 ++ w1 ++ w2 ++ w3) 1 = w1 := by
  rw [wordOf, BitVec.extractLsb'_append_eq_of_le (by decide), BitVec.extractLsb'_append_eq_of_le (by decide)]
  exact BitVec.extractLsb'_append_eq_right

theorem wordOf_append_two : wordOf (w0 ++ w1 ++ w2 ++ w3) 2 = w2 := by
  rw [wordOf, BitVec.extractLsb'_append_eq_of_le (by decide)]
  exact BitVec.extractLsb'_append_eq_right

theorem wordOf_append_three : wordOf (w0 ++ w1 ++ w2 ++ w3) 3 = w3 :=
  BitVec.extractLsb'_append_eq_right

end

/-- The first word of the next round key takes the last word of this one through `RotWord`, `SubWord` and `Rcon`. -/
theorem wordOf_nextRoundKey_zero (j : Nat) (rk : Block) :
    wordOf (nextRoundKey j rk) 0 = wordOf rk 0 ^^^ (subWord (rotWord (wordOf rk 3)) ^^^ rconSucc j) :=
  wordOf_append_zero _ _ _ _

/-- Each other word takes the word before it as it is. -/
theorem wordOf_nextRoundKey_succ (j : Nat) (rk : Block) {c : Nat} (h : c < 3) :
    wordOf (nextRoundKey j rk) (c + 1) = wordOf rk (c + 1) ^^^ wordOf (nextRoundKey j rk) c := by
  rw [nextRoundKey]
  match c, h with
  | 0, _ => rw [wordOf_append_one, wordOf_append_zero]
  | 1, _ => rw [wordOf_append_two, wordOf_append_one]
  | 2, _ => rw [wordOf_append_three, wordOf_append_two]

/-- Word `c` of round key `q` is `w[4q + c]`. -/
theorem keyWord_mul_add (key : Block) (q : Nat) {c : Nat} (h : c < 4) :
    keyWord key (4 * q + c) = wordOf (roundKey key q) c := by
  have hdiv : (4 * q + c) / 4 = q := by omega
  have hmod : (4 * q + c) % 4 = c := by omega
  rw [keyWord, hdiv, hmod]

/-- The round constants `Rcon(1)` to `Rcon(10)` are the ten the spec lists. -/
theorem rconSucc_eq_getD : ∀ j < 10, rconSucc j =
    [0x01#8, 0x02#8, 0x04#8, 0x08#8, 0x10#8, 0x20#8, 0x40#8, 0x80#8, 0x1b#8, 0x36#8].getD j 0#8 ++ 0#24 := by
  decide

/-- Settles O42: `w[i]` is a word of round key `i / 4`, whose words are those of the round key before by the two
rules. -/
theorem keyScheduleRecurrence : Obligations.KeyScheduleRecurrence := by
  refine ⟨fun key i hi => ?_, fun key i h4 _ hmod => ?_, fun key i h4 h43 hmod => ?_⟩
  · have hword : keyWord key i = wordOf key i := (congrArg (keyWord key) (Nat.zero_add i)).symm.trans
      (keyWord_mul_add key 0 (by omega))
    rw [hword, wordOf_eq_bytes key hi]
  · obtain ⟨q, c, hc, rfl⟩ : ∃ q c, c < 3 ∧ i = 4 * (q + 1) + (c + 1) := ⟨i / 4 - 1, i % 4 - 1, by omega, by omega⟩
    have hfour : 4 * (q + 1) + (c + 1) - 4 = 4 * q + (c + 1) := by omega
    have hone : 4 * (q + 1) + (c + 1) - 1 = 4 * (q + 1) + c := by omega
    rw [hfour, hone, keyWord_mul_add key _ (by omega), keyWord_mul_add key _ (by omega),
      keyWord_mul_add key _ (by omega), roundKey, wordOf_nextRoundKey_succ q _ hc]
  · obtain ⟨q, rfl⟩ : ∃ q, i = 4 * (q + 1) + 0 := ⟨i / 4 - 1, by omega⟩
    have hfour : 4 * (q + 1) + 0 - 4 = 4 * q + 0 := by omega
    have hone : 4 * (q + 1) + 0 - 1 = 4 * q + 3 := by omega
    have hround : (4 * (q + 1) + 0) / 4 - 1 = q := by omega
    rw [hfour, hone, hround, keyWord_mul_add key _ (by omega), keyWord_mul_add key _ (by omega),
      keyWord_mul_add key _ (by omega), roundKey, wordOf_nextRoundKey_zero, rconSucc_eq_getD q (by omega)]

/-! ### The transformations by cells (R94 to R96) -/

theorem cell_blockOfCells (f : Nat → Nat → Byte) {r c : Nat} (hr : r < 4) (hc : c < 4) :
    cell (blockOfCells f) r c = f r c := by
  have hmod : (r + 4 * c) % 4 = r := by omega
  have hdiv : (r + 4 * c) / 4 = c := by omega
  rw [cell, blockOfCells, byte_blockOfFn _ _ (by omega), hmod, hdiv]

/-- Two Blocks with the same sixteen cells are equal. -/
theorem block_ext_cells {v w : Block} (h : ∀ r c, r < 4 → c < 4 → cell v r c = cell w r c) : v = w := by
  refine block_ext fun i hi => ?_
  have hcell : i % 4 + 4 * (i / 4) = i := Nat.mod_add_div i 4
  have hi := h (i % 4) (i / 4) (by omega) (by omega)
  rwa [cell, cell, hcell] at hi

theorem subBytes_injective : Function.Injective subBytes := by
  refine fun v w h => block_ext_cells fun r c hr hc => sbox_injective ?_
  have hcell := congrArg (cell · r c) h
  simpa only [subBytes, cell_blockOfCells _ hr hc] using hcell

/-- The cell in row `r` and column `c` is found `r` columns to the left after the rotation. -/
theorem cell_shiftRows (s : Block) {r c : Nat} (hr : r < 4) (hc : c < 4) :
    cell (shiftRows s) r ((c + 4 - r) % 4) = cell s r c := by
  have hback : ((c + 4 - r) % 4 + r) % 4 = c := by omega
  rw [shiftRows, cell_blockOfCells _ hr (by omega), hback]

theorem shiftRows_injective : Function.Injective shiftRows := by
  refine fun v w h => block_ext_cells fun r c hr hc => ?_
  rw [← cell_shiftRows v hr hc, h, cell_shiftRows w hr hc]

/-! ### `MixColumns`: the fourth power of its matrix is the identity -/

theorem xtime_eq_xor (a : Byte) : xtime a = (a <<< 1) ^^^ (if a.msb then 0x1B#8 else 0#8) := by
  rw [xtime]
  split
  · rfl
  · exact BitVec.xor_zero.symm

theorem xor_left_comm (a b c : Byte) : a ^^^ (b ^^^ c) = b ^^^ (a ^^^ c) := by
  rw [← BitVec.xor_assoc, BitVec.xor_comm a b, BitVec.xor_assoc]

theorem xtime_xor (a b : Byte) : xtime (a ^^^ b) = xtime a ^^^ xtime b := by
  rw [xtime_eq_xor, xtime_eq_xor a, xtime_eq_xor b, BitVec.shiftLeft_xor_distrib, BitVec.msb_xor]
  cases a.msb <;> cases b.msb <;> simp [BitVec.xor_assoc, BitVec.xor_comm, xor_left_comm]

/-- The sum of a column. -/
def columnSum (s : Block) (c : Nat) : Byte := cell s 0 c ^^^ cell s 1 c ^^^ cell s 2 c ^^^ cell s 3 c

/-- R96's row in terms of the column's sum: only the row's own cell and the next one are multiplied. -/
theorem cell_mixColumns (s : Block) {r c : Nat} (hr : r < 4) (hc : c < 4) :
    cell (mixColumns s) r c =
      cell s r c ^^^ columnSum s c ^^^ xtime (cell s r c ^^^ cell s ((r + 1) % 4) c) := by
  rw [mixColumns, cell_blockOfCells _ hr hc, columnSum, xtime_xor]
  match r, hr with
  | 0, _ => simp [mixCell, mul3, BitVec.xor_assoc, BitVec.xor_comm, xor_left_comm]
  | 1, _ => simp [mixCell, mul3, BitVec.xor_assoc, BitVec.xor_comm, xor_left_comm]
  | 2, _ => simp [mixCell, mul3, BitVec.xor_assoc, BitVec.xor_comm, xor_left_comm]
  | 3, _ => simp [mixCell, mul3, BitVec.xor_assoc, BitVec.xor_comm, xor_left_comm]

section
variable (a b c d t : Byte)

/-- What is added to the cells of a column cancels in its sum. -/
theorem mixColumns_sum :
    (a ^^^ t ^^^ xtime (a ^^^ b)) ^^^ (b ^^^ t ^^^ xtime (b ^^^ c)) ^^^ (c ^^^ t ^^^ xtime (c ^^^ d)) ^^^
      (d ^^^ t ^^^ xtime (d ^^^ a)) = a ^^^ b ^^^ c ^^^ d := by
  simp [xtime_xor, BitVec.xor_assoc, BitVec.xor_comm, xor_left_comm]

theorem mixColumns_row_twice :
    (a ^^^ t ^^^ xtime (a ^^^ b)) ^^^ t ^^^ xtime ((a ^^^ t ^^^ xtime (a ^^^ b)) ^^^ (b ^^^ t ^^^ xtime (b ^^^ c))) =
      a ^^^ xtime (xtime (a ^^^ c)) := by
  simp [xtime_xor, BitVec.xor_assoc, BitVec.xor_comm, xor_left_comm]

theorem mixColumns_row_four_times :
    (a ^^^ xtime (xtime (a ^^^ b))) ^^^
      xtime (xtime ((a ^^^ xtime (xtime (a ^^^ b))) ^^^ (b ^^^ xtime (xtime (b ^^^ a))))) = a := by
  simp [xtime_xor, BitVec.xor_assoc, BitVec.xor_comm]

end

theorem columnSum_mixColumns (s : Block) {c : Nat} (hc : c < 4) : columnSum (mixColumns s) c = columnSum s c := by
  rw [columnSum, cell_mixColumns s (by decide) hc, cell_mixColumns s (by decide) hc, cell_mixColumns s (by decide) hc,
    cell_mixColumns s (by decide) hc]
  exact mixColumns_sum (cell s 0 c) (cell s 1 c) (cell s 2 c) (cell s 3 c) (columnSum s c)

/-- The square of R96's matrix: 5 times the cell itself and 4 times the cell two rows on. -/
theorem cell_mixColumns_mixColumns (s : Block) {r c : Nat} (hr : r < 4) (hc : c < 4) :
    cell (mixColumns (mixColumns s)) r c =
      cell s r c ^^^ xtime (xtime (cell s r c ^^^ cell s ((r + 2) % 4) c)) := by
  have hrow : ((r + 1) % 4 + 1) % 4 = (r + 2) % 4 := by omega
  have hnext : (r + 1) % 4 < 4 := by omega
  rw [cell_mixColumns _ hr hc, columnSum_mixColumns s hc, cell_mixColumns s hr hc, cell_mixColumns s hnext hc, hrow,
    mixColumns_row_twice]

theorem mixColumns_four_times (s : Block) : mixColumns (mixColumns (mixColumns (mixColumns s))) = s := by
  refine block_ext_cells fun r c hr hc => ?_
  have hrow : ((r + 2) % 4 + 2) % 4 = r := by omega
  have hnext : (r + 2) % 4 < 4 := by omega
  rw [cell_mixColumns_mixColumns _ hr hc, cell_mixColumns_mixColumns s hr hc, cell_mixColumns_mixColumns s hnext hc,
    hrow, mixColumns_row_four_times]

theorem mixColumns_injective : Function.Injective mixColumns := by
  intro v w h
  rw [← mixColumns_four_times v, h, mixColumns_four_times w]

/-! ### The cipher (R97, R100) -/

theorem addRoundKey_injective {v w roundKey : Block} (h : addRoundKey v roundKey = addRoundKey w roundKey) : v = w :=
  (BitVec.xor_left_inj roundKey).mp h

theorem fullRounds_injective (key : Block) (j : Nat) {v w : Block} (h : fullRounds key v j = fullRounds key w j) :
    v = w := by
  induction j with
  | zero => exact addRoundKey_injective h
  | succ j ih =>
    rw [fullRounds, fullRounds] at h
    exact ih (subBytes_injective (shiftRows_injective (mixColumns_injective (addRoundKey_injective h))))

theorem aes128_injective (key : Block) : Function.Injective (aes128 key) := by
  intro v w h
  rw [aes128, aes128] at h
  exact fullRounds_injective key 9 (subBytes_injective (shiftRows_injective (addRoundKey_injective h)))

/-- Settles O43: each transformation of a round is injective, and the Blocks are finite. -/
theorem aesIsPermutation : Obligations.AesIsPermutation :=
  fun key => Finite.injective_iff_bijective.mp (aes128_injective key)

end Sys2Proof.Machine
end

section
/-! PROOFS about the functions of the units: `dbl` on bytes (R110, R112) and the chaining of `Compute` (R128). -/

namespace Sys2Proof.Machine

/-! ### `dbl` on bytes -/

theorem dbl_eq_xor (x : Block) : dbl x = (x <<< 1) ^^^ (if x.msb then rb else 0#128) := by
  rw [dbl]
  split
  · rfl
  · exact BitVec.xor_zero.symm

theorem getLsbD_byte (v : Block) (i : Nat) {j : Nat} (h : j < 8) :
    (byte v i).getLsbD j = v.getLsbD (120 - 8 * i + j) := by
  rw [byte, BitVec.getLsbD_extractLsb', decide_eq_true h, Bool.true_and]

theorem getLsbD_byte_of_le (v : Block) (i : Nat) {j : Nat} (h : 8 ≤ j) : (byte v i).getLsbD j = false :=
  BitVec.getLsbD_of_ge _ _ h

/-- Bit 0 comes in as zero, and every other bit is the one below it. -/
theorem getLsbD_shiftLeft_one {n : Nat} (v : BitVec n) (j : Nat) :
    (v <<< 1).getLsbD j = (decide (0 < j ∧ j < n) && v.getLsbD (j - 1)) := by
  rw [BitVec.getLsbD_shiftLeft]
  cases j <;> simp

/-- A shift by one moves the top bit of each byte into the byte before it (R112). -/
theorem byte_shiftLeft_one (x : Block) {i : Nat} (h : i < 15) :
    byte (x <<< 1) i = (byte x i <<< 1) ||| (byte x (i + 1) >>> 7) := by
  apply BitVec.eq_of_getLsbD_eq
  intro j hj
  have hin : 0 < 120 - 8 * i + j ∧ 120 - 8 * i + j < 128 := by omega
  rw [getLsbD_byte _ _ hj, getLsbD_shiftLeft_one, decide_eq_true hin, BitVec.getLsbD_or, getLsbD_shiftLeft_one,
    BitVec.getLsbD_ushiftRight, Bool.true_and]
  cases j with
  | zero =>
    have hcarry : 120 - 8 * (i + 1) + 7 = 120 - 8 * i - 1 := by omega
    rw [getLsbD_byte x (i + 1) (by omega)]
    simp [hcarry]
  | succ j =>
    rw [getLsbD_byte_of_le x (i + 1) (by omega), getLsbD_byte x i (by omega), Bool.or_false,
      decide_eq_true ⟨by omega, hj⟩, Bool.true_and, ← Nat.add_assoc, Nat.add_sub_cancel, Nat.add_sub_cancel]

/-- Nothing is shifted into the last byte. -/
theorem byte_shiftLeft_one_last (x : Block) : byte (x <<< 1) 15 = byte x 15 <<< 1 := by
  apply BitVec.eq_of_getLsbD_eq
  intro j hj
  have hin : j < 128 := by omega
  have hbelow : j - 1 < 8 := by omega
  rw [getLsbD_byte _ _ hj, getLsbD_shiftLeft_one, getLsbD_shiftLeft_one, getLsbD_byte _ _ hbelow]
  simp [hj, hin]

theorem byte_rb : (∀ i < 15, byte rb i = 0#8) ∧ byte rb 15 = 0x87#8 := by decide

/-- The top bit of byte 0 is the top bit of the Block. -/
theorem topBit_byte_zero (x : Block) : byte x 0 >>> 7 = 1#8 ↔ x.msb = true := by
  have hbit : ∀ b : Byte, b >>> 7 = 1#8 ↔ b.getLsbD 7 = true := by decide +kernel
  rw [hbit, BitVec.msb_eq_getLsbD_last]
  simp [byte]

/-- Settles O34: the shift carries from byte to byte, and the XOR with `Rb` reaches the last byte only. -/
theorem dblOnBytesCarriesForward : Obligations.DblOnBytesCarriesForward := by
  refine fun x => ⟨fun i hi => ?_, ?_⟩
  · have hrb : byte (if x.msb then rb else 0#128) i = 0#8 := by
      split
      · exact byte_rb.1 i hi
      · exact byte_zero i
    rw [dbl_eq_xor, byte_xor, hrb, BitVec.xor_zero, byte_shiftLeft_one x hi]
  · rw [dbl_eq_xor, byte_xor, byte_shiftLeft_one_last, apply_ite (byte · 15), byte_rb.2, byte_zero]
    exact congrArg _ (if_congr (topBit_byte_zero x).symm rfl rfl)

/-! ### The chaining of `Compute` -/

theorem messageBlock_zero (m : List Byte) : messageBlock m 0 = blockOfBytes (m.take 16) := rfl

section
variable {b : List Byte} (hb : b.length = 16) (rest : List Byte)
include hb

theorem drop_append_block (n : Nat) : (b ++ rest).drop (16 * (n + 1)) = rest.drop (16 * n) := by
  rw [List.drop_append, List.drop_eq_nil_of_le (by omega), List.nil_append, hb]
  congr 1

theorem messageBlock_append_zero : messageBlock (b ++ rest) 0 = blockOfBytes b := by
  rw [messageBlock_zero, List.take_left' hb]

theorem messageBlock_append_succ (q : Nat) : messageBlock (b ++ rest) (q + 1) = messageBlock rest q := by
  rw [messageBlock, drop_append_block hb, messageBlock]

/-- A block in front is chained into the IV. -/
theorem chainValue_append_succ (cfg : Config) (rawKey iv : Block) (q : Nat) :
    chainValue cfg rawKey iv (b ++ rest) (q + 1) =
      chainValue cfg rawKey (cfg.encrypt rawKey (iv ^^^ blockOfBytes b)) rest q := by
  induction q with
  | zero => rw [chainValue, chainValue, chainValue, messageBlock_append_zero hb]
  | succ q ih => rw [chainValue, ih, messageBlock_append_succ hb, chainValue]

end

/-- The last block is the one that holds the last byte, counted from 0, or block 0 of the empty message (R126). -/
theorem blockCount_pred (n : Nat) : blockCount n - 1 = (n - 1) / 16 := by
  rw [blockCount]
  split <;> omega

/-- A block in front of a non-empty rest leaves the last block as it is. -/
theorem lastBlock_append {b rest : List Byte} (hb : b.length = 16) (hrest : rest ≠ []) (km : KeyMaterial) :
    lastBlock km (b ++ rest) = lastBlock km rest := by
  have hpos : 0 < rest.length := List.length_pos_iff.mpr hrest
  have hlen : (b ++ rest).length = 16 + rest.length := by rw [List.length_append, hb]
  have hlast : (16 + rest.length - 1) / 16 = (rest.length - 1) / 16 + 1 := by omega
  have hcond : (0 < 16 + rest.length ∧ (16 + rest.length) % 16 = 0) ↔ (0 < rest.length ∧ rest.length % 16 = 0) := by
    omega
  rw [lastBlock_eq_ite, lastBlock_eq_ite, hlen, blockCount_pred, blockCount_pred, hlast, drop_append_block hb]
  exact if_congr hcond rfl rfl

/-- Settles O40: a message of one block has nothing to chain; a block in front adds one chaining step at the start and
nothing at the end. -/
theorem computeChainsAllButTheLastBlock : Obligations.ComputeChainsAllButTheLastBlock := by
  refine ⟨fun cfg km iv m h => ?_, fun cfg km iv b rest hb hrest => ⟨?_, lastBlock_append hb hrest km⟩⟩
  · have hone : (m.length - 1) / 16 = 0 := by omega
    rw [compute, blockCount_pred, hone, chainValue]
  · have hpos : 0 < rest.length := List.length_pos_iff.mpr hrest
    have hlast : ((b ++ rest).length - 1) / 16 = (rest.length - 1) / 16 + 1 := by
      rw [List.length_append, hb]
      omega
    rw [compute, blockCount_pred, hlast, chainValue_append_succ hb, lastBlock_append hb hrest, compute, blockCount_pred]

end Sys2Proof.Machine
end

section
/-! PROOFS about ABSORB (R133, R134): what its byte steps make of the buffer, and where they read the cipher. -/

namespace Sys2Proof.Machine

/-! ### The buffer as a row of bytes -/

/-- The state with the bytes of `row` in its buffer, left-justified (R25, R26). -/
def State.withRow (s : State) (row : List Byte) : State :=
  { s with buf := blockOfBytes row, bufLen := Fin.ofNat 17 row.length }

/-- The state with another chaining value. -/
def State.withCv (s : State) (v : Block) : State := { s with cv := v }

theorem withRow_nil (s : State) : s.withRow [] = { s with buf := 0#128, bufLen := 0 } := by
  rw [State.withRow, blockOfBytes_nil]
  rfl

theorem chainBlock_eq (cfg : Config) (s : State) :
    chainBlock cfg s = (s.withCv (cfg.encrypt s.key (s.cv ^^^ s.buf))).withRow [] := by
  rw [withRow_nil]
  rfl

/-! ### Byte steps that find room -/

/-- Bytes put into the buffer one after another, as long as there is room: no block is chained and no cipher read. -/
def putBytes (s : State) (l : List Byte) : State := l.foldl (fun u b => putByte b u) s

theorem putBytes_cons (s : State) (b : Byte) (l : List Byte) : putBytes s (b :: l) = putBytes (putByte b s) l := rfl

theorem putBytes_frame (s : State) (l : List Byte) :
    putBytes s l = { s with buf := (putBytes s l).buf, bufLen := (putBytes s l).bufLen } := by
  induction l generalizing s with
  | nil => rfl
  | cons b l ih => rw [putBytes_cons, ih, putByte]

theorem putBytes_key (s : State) (l : List Byte) : (putBytes s l).key = s.key := by rw [putBytes_frame]

theorem putBytes_cv (s : State) (l : List Byte) : (putBytes s l).cv = s.cv := by rw [putBytes_frame]

theorem putBytes_bufLen {s : State} {l : List Byte} (h : s.bufLen.val + l.length ≤ 16) :
    (putBytes s l).bufLen.val = s.bufLen.val + l.length := by
  induction l generalizing s with
  | nil => rfl
  | cons b l ih =>
    rw [List.length_cons] at h ⊢
    have hput := putByte_bufLen_val b (s := s) (by omega)
    rw [putBytes_cons, ih (by omega), hput]
    omega

/-- Bytes that fit into the buffer are put there. -/
theorem absorbBytes_of_room (cfg : Config) {s : State} {l : List Byte} (h : s.bufLen.val + l.length ≤ 16) :
    absorbBytes cfg s l = putBytes s l := by
  induction l generalizing s with
  | nil => rfl
  | cons b l ih =>
    rw [List.length_cons] at h
    have hroom : s.bufLen ≠ 16 := fun e => absurd (congrArg Fin.val e) (Nat.ne_of_lt (by omega))
    have hput := putByte_bufLen_val b (s := s) (by omega)
    rw [absorbBytes_cons, absorbByte_room cfg b hroom, ih (by omega), putBytes_cons]

/-! ### Byte steps that overflow the buffer -/

/-- A full buffer is chained before the first byte, and has room then. -/
theorem absorbBytes_of_full (cfg : Config) {s : State} {l : List Byte} (h : s.bufLen = 16) (hl : l ≠ []) :
    absorbBytes cfg s l = absorbBytes cfg (chainBlock cfg s) l := by
  cases l with
  | nil => exact absurd rfl hl
  | cons b l =>
    have hroom : (chainBlock cfg s).bufLen ≠ 16 := by simp
    rw [absorbBytes_cons, absorbBytes_cons, absorbByte_full cfg b h, absorbByte_room cfg b hroom]

/-- The state with the buffer filled up from the front of `l`. -/
def fillBuffer (s : State) (l : List Byte) : State := putBytes s (l.take (16 - s.bufLen.val))

/-- What is left of a beat that overflows when the full block has been chained into `v`. -/
def restartBuffer (s : State) (l : List Byte) (v : Block) : State :=
  putBytes (((fillBuffer s l).withCv v).withRow []) (l.drop (16 - s.bufLen.val))

theorem restartBuffer_cv (s : State) (l : List Byte) (v : Block) : (restartBuffer s l v).cv = v := putBytes_cv _ _

/-- A beat that overflows the buffer fills it, chains it once under `KEY`, and starts it again (R134). -/
theorem absorbBytes_of_overflow (cfg : Config) {s : State} {l : List Byte} (hl : l.length ≤ 16)
    (h : 16 < s.bufLen.val + l.length) :
    absorbBytes cfg s l =
      restartBuffer s l (cfg.encrypt s.key ((fillBuffer s l).cv ^^^ (fillBuffer s l).buf)) := by
  have hbuf := s.bufLen.isLt
  have htake : (l.take (16 - s.bufLen.val)).length = 16 - s.bufLen.val := List.length_take_of_le (by omega)
  have hdrop : (l.drop (16 - s.bufLen.val)).length ≤ 16 := by rw [List.length_drop]; omega
  have hrest : l.drop (16 - s.bufLen.val) ≠ [] := List.length_pos_iff.mp (by rw [List.length_drop]; omega)
  have hfill : absorbBytes cfg s (l.take (16 - s.bufLen.val)) = fillBuffer s l := absorbBytes_of_room cfg (by omega)
  have hfull : (fillBuffer s l).bufLen = 16 := by
    apply Fin.ext
    rw [fillBuffer, putBytes_bufLen (by omega), htake]
    exact Nat.add_sub_of_le (Nat.le_of_lt_succ hbuf)
  have hkey : (fillBuffer s l).key = s.key := putBytes_key _ _
  calc absorbBytes cfg s l
      = absorbBytes cfg (fillBuffer s l) (l.drop (16 - s.bufLen.val)) := by
        rw [← hfill, ← absorbBytes_append, List.take_append_drop]
    _ = absorbBytes cfg (chainBlock cfg (fillBuffer s l)) (l.drop (16 - s.bufLen.val)) :=
        absorbBytes_of_full cfg hfull hrest
    _ = putBytes (chainBlock cfg (fillBuffer s l)) (l.drop (16 - s.bufLen.val)) :=
        absorbBytes_of_room cfg (by rw [chainBlock_bufLen, Fin.val_zero]; omega)
    _ = _ := by rw [chainBlock_eq, hkey, restartBuffer]

/-- The count after a byte step, with the buffer full or not. -/
theorem absorbByte_bufLen_mod (cfg : Config) (s : State) (b : Byte) :
    (absorbByte cfg s b).bufLen.val = s.bufLen.val % 16 + 1 := by
  rw [absorbByte_bufLen]
  split
  case isTrue h => rw [h]; rfl
  case isFalse h => rw [Nat.mod_eq_of_lt (bufLen_lt_of_ne h)]

/-- The count after any number of byte steps (R134). -/
theorem absorbBytes_bufLen (cfg : Config) (s : State) {l : List Byte} (hl : l ≠ []) :
    (absorbBytes cfg s l).bufLen.val = (s.bufLen.val + l.length - 1) % 16 + 1 := by
  induction l generalizing s with
  | nil => exact absurd rfl hl
  | cons b l ih =>
    rw [absorbBytes_cons, List.length_cons]
    by_cases hnil : l = []
    · subst hnil
      exact absorbByte_bufLen_mod cfg s b
    · have hpos : 0 < l.length := List.length_pos_iff.mpr hnil
      rw [ih _ hnil, absorbByte_bufLen_mod]
      omega

/-! ### Byte steps on a row -/

theorem withRow_bufLen_val (s : State) {row : List Byte} (h : row.length ≤ 16) :
    (s.withRow row).bufLen.val = row.length := Nat.mod_eq_of_lt (Nat.lt_succ_of_le h)

/-- The next byte goes behind the bytes of the row. -/
theorem setByte_blockOfBytes (row : List Byte) (b : Byte) :
    setByte (blockOfBytes row) row.length b = blockOfBytes (row ++ [b]) := by
  refine block_ext fun i hi => ?_
  rw [byte_setByte _ _ _ _ hi, byte_blockOfBytes _ _ hi, byte_blockOfBytes _ _ hi]
  obtain hlt | rfl | hgt := Nat.lt_trichotomy i row.length
  · rw [if_neg (by omega), List.getD_append _ _ _ _ hlt]
  · rw [if_pos rfl, List.getD_append_right _ _ _ _ (Nat.le_refl _), Nat.sub_self]
    rfl
  · have hrow : row.getD i 0#8 = 0#8 := List.getD_eq_default _ _ (by omega)
    have happ : (row ++ [b]).getD i 0#8 = 0#8 := List.getD_eq_default _ _ (by simp; omega)
    rw [if_neg (by omega), hrow, happ]

theorem putByte_withRow (s : State) {row : List Byte} (h : row.length < 16) (b : Byte) :
    putByte b (s.withRow row) = s.withRow (row ++ [b]) := by
  have hval := withRow_bufLen_val s (row := row) (by omega)
  have hlen : (row ++ [b]).length = row.length + 1 := List.length_append
  have hcount : (s.withRow row).bufLen + 1 = (s.withRow (row ++ [b])).bufLen := by
    apply Fin.ext
    rw [withRow_bufLen_val s (by omega), hlen, Fin.val_add_one_of_lt (by rw [Fin.lt_def, hval]; exact h), hval]
  rw [putByte, hcount, hval]
  exact congrArg (fun v => { s with buf := v, bufLen := (s.withRow (row ++ [b])).bufLen }) (setByte_blockOfBytes row b)

theorem absorbByte_withRow_of_room (cfg : Config) (s : State) {row : List Byte} (h : row.length < 16) (b : Byte) :
    absorbByte cfg (s.withRow row) b = s.withRow (row ++ [b]) := by
  have hroom : (s.withRow row).bufLen ≠ 16 := fun e =>
    Nat.ne_of_lt h ((withRow_bufLen_val s (by omega)).symm.trans (congrArg Fin.val e))
  rw [absorbByte_room cfg b hroom, putByte_withRow s h]

theorem absorbByte_withRow_of_full (cfg : Config) (s : State) {row : List Byte} (h : row.length = 16) (b : Byte) :
    absorbByte cfg (s.withRow row) b = (s.withCv (cfg.encrypt s.key (s.cv ^^^ blockOfBytes row))).withRow [b] := by
  have hfull : (s.withRow row).bufLen = 16 := Fin.ext ((withRow_bufLen_val s (by omega)).trans h)
  have hchain : chainBlock cfg (s.withRow row) =
      (s.withCv (cfg.encrypt s.key (s.cv ^^^ blockOfBytes row))).withRow [] := chainBlock_eq cfg _
  rw [absorbByte_full cfg b hfull, hchain, putByte_withRow _ (by simp), List.nil_append]

/-- Bytes that fit go behind the row. -/
theorem putBytes_withRow (s : State) {row l : List Byte} (h : row.length + l.length ≤ 16) :
    putBytes (s.withRow row) l = s.withRow (row ++ l) := by
  induction l generalizing row with
  | nil => rw [List.append_nil]; rfl
  | cons b l ih =>
    rw [List.length_cons] at h
    rw [putBytes_cons, putByte_withRow s (by omega), ih (by simp; omega), List.append_assoc, List.singleton_append]

/-- With zeros beyond its bytes the buffer is a row (I3). -/
theorem eq_withRow_of_zeroBeyond {s : State} (h : ZeroBeyondBufLen s) :
    s = s.withRow (messageBytes s.bufLen.val s.buf) := by
  have hbuf : s.buf = blockOfBytes (messageBytes s.bufLen.val s.buf) := by
    refine block_ext fun i hi => ?_
    rw [byte_blockOfBytes _ _ hi]
    by_cases hlt : i < s.bufLen.val
    · simp [messageBytes, List.getD_eq_getElem?_getD, hlt]
    · rw [List.getD_eq_default _ _ (by simp; omega), h i (by omega) (by omega)]
  have hlen : s.bufLen = Fin.ofNat 17 (messageBytes s.bufLen.val s.buf).length := by
    rw [length_messageBytes, Fin.ofNat_val_eq_self]
  rw [State.withRow, ← hbuf, ← hlen]

/-! ### ABSORB in closed form -/

section
variable (cfg : Config) (s : State) {row l : List Byte}

theorem absorbBytes_withRow_of_room (h : (row ++ l).length ≤ 16) :
    absorbBytes cfg (s.withRow row) l = s.withRow (row ++ l) := by
  rw [List.length_append] at h
  rw [absorbBytes_of_room cfg (by rwa [withRow_bufLen_val s (by omega)]), putBytes_withRow s h]

theorem absorbBytes_withRow_of_overflow (hrow : row.length ≤ 16) (hl : l.length ≤ 16) (h : 16 < (row ++ l).length) :
    absorbBytes cfg (s.withRow row) l =
      (s.withCv (cfg.encrypt s.key (s.cv ^^^ blockOfBytes ((row ++ l).take 16)))).withRow ((row ++ l).drop 16) := by
  rw [List.length_append] at h
  have hval := withRow_bufLen_val s hrow
  have htake : (row ++ l).take 16 = row ++ l.take (16 - row.length) := by
    rw [List.take_append, List.take_of_length_le hrow]
  have hdrop : (row ++ l).drop 16 = l.drop (16 - row.length) := by
    rw [List.drop_append, List.drop_eq_nil_of_le hrow, List.nil_append]
  have hfill : fillBuffer (s.withRow row) l = s.withRow ((row ++ l).take 16) := by
    rw [fillBuffer, hval, putBytes_withRow s (by rw [List.length_take]; omega), htake]
  have hrest : ((row ++ l).drop 16).length ≤ 16 := by
    rw [List.length_drop, List.length_append]
    omega
  rw [absorbBytes_of_overflow cfg hl (by omega), restartBuffer, hfill, hval, ← hdrop]
  exact putBytes_withRow _ (by simpa using hrest)

end

section
variable (cfg : Config) {s : State} (hs : ZeroBeyondBufLen s) {l : List Byte}
include hs

theorem absorbBytes_of_row_le (h : (messageBytes s.bufLen.val s.buf ++ l).length ≤ 16) :
    absorbBytes cfg s l = s.withRow (messageBytes s.bufLen.val s.buf ++ l) := by
  rw [← absorbBytes_withRow_of_room cfg s h, ← eq_withRow_of_zeroBeyond hs]

theorem absorbBytes_of_lt_row (hl : l.length ≤ 16) (h : 16 < (messageBytes s.bufLen.val s.buf ++ l).length) :
    absorbBytes cfg s l =
      (s.withCv (cfg.encrypt s.key (s.cv ^^^ blockOfBytes ((messageBytes s.bufLen.val s.buf ++ l).take 16)))).withRow
        ((messageBytes s.bufLen.val s.buf ++ l).drop 16) := by
  have hrow : (messageBytes s.bufLen.val s.buf).length ≤ 16 := by
    rw [length_messageBytes]
    exact Nat.le_of_lt_succ s.bufLen.isLt
  rw [← absorbBytes_withRow_of_overflow cfg s hrow hl h, ← eq_withRow_of_zeroBeyond hs]

end

/-- Of the registers the byte steps write `CV`, `BUF` and `BUFLEN` only. -/
theorem absorbBytes_eq_writes (cfg : Config) (s : State) (l : List Byte) : absorbBytes cfg s l =
    { s with
      cv := (absorbBytes cfg s l).cv
      buf := (absorbBytes cfg s l).buf
      bufLen := (absorbBytes cfg s l).bufLen } := by
  obtain ⟨hkey, hk1, hk2, hdout, hkv, hma, hdv, herr, hin⟩ := absorbBytes_frame cfg l s
  rw [← hkey, ← hk1, ← hk2, ← hdout, ← hkv, ← hma, ← hdv, ← herr, ← hin]

/-- Settles O19: with zeros beyond `BUFLEN` the buffer is a row, to which the beat is appended; of more than sixteen
bytes the first sixteen are chained. -/
theorem absorbClosedForm : Obligations.AbsorbClosedForm := by
  intro len d s he hk hm hl hzero
  refine ⟨absorbBytes Config.hardware s (messageBytes len.toNat d), ?_, ⟨fun h => ?_, fun h => ?_⟩, fun hpos => ?_,
    absorbBytes_eq_writes _ s _⟩
  · rw [exec_absorb, absorb_of_legal _ d he hk hm hl]
  · rw [absorbBytes_of_row_le _ hzero h]
    exact ⟨rfl, rfl, withRow_bufLen_val s h⟩
  · have hbeat : (messageBytes len.toNat d).length ≤ 16 := by rwa [length_messageBytes]
    have hrest : ((messageBytes s.bufLen.val s.buf ++ messageBytes len.toNat d).drop 16).length ≤ 16 := by
      have hbuf := s.bufLen.isLt
      rw [List.length_drop, List.length_append, length_messageBytes, length_messageBytes]
      omega
    rw [absorbBytes_of_lt_row _ hzero hbeat h]
    exact ⟨rfl, rfl, (withRow_bufLen_val _ hrest).trans List.length_drop⟩
  · have hne : messageBytes len.toNat d ≠ [] := List.length_pos_iff.mp (by rwa [length_messageBytes])
    rw [absorbBytes_bufLen _ s hne, length_messageBytes]

/-! ### Where the byte steps read the cipher -/

section
variable {cfg cfg' : Config} {s : State}

theorem absorbByte_congr_cipher (h : ∀ b, cfg.encrypt s.key b = cfg'.encrypt s.key b) (b : Byte) :
    absorbByte cfg s b = absorbByte cfg' s b := by
  by_cases hfull : s.bufLen = 16
  · rw [absorbByte_full cfg b hfull, absorbByte_full cfg' b hfull, chainBlock, h, chainBlock]
  · rw [absorbByte_room cfg b hfull, absorbByte_room cfg' b hfull]

theorem absorbBytes_congr_cipher (h : ∀ b, cfg.encrypt s.key b = cfg'.encrypt s.key b) (l : List Byte) :
    absorbBytes cfg s l = absorbBytes cfg' s l := by
  induction l generalizing s with
  | nil => rfl
  | cons b l ih =>
    obtain ⟨hkey, -⟩ := absorbByte_frame cfg' s b
    rw [absorbBytes_cons, absorbBytes_cons, absorbByte_congr_cipher h, ih (hkey ▸ h)]

end

/-- Settles O44: ABSORB, FINAL and ENC have `KEY` as the cipher's key, LOADKEY its operand. -/
theorem cipherIsUsedUnderRawKeyOnly : Obligations.CipherIsUsedUnderRawKeyOnly := by
  refine fun cfg cfg' s => ⟨fun h => ⟨fun len d => ?_, ?_, fun b => ?_⟩, fun k h => ?_⟩
  · exact absorb_congr fun _ => absorbBytes_congr_cipher h _
  · rw [final, h, final]
  · rw [enc, h, enc]
  · rw [loadkey, newKeyMaterial, h, loadkey, newKeyMaterial]

/-- Settles O45: a beat that fits reads no cipher; one that overflows reads it at the filled buffer. -/
theorem absorbEvaluatesCipherAtMostOnce : Obligations.AbsorbEvaluatesCipherAtMostOnce := by
  intro len d s
  have hfits : s.bufLen.val + len.toNat ≤ 16 → ∀ cfg cfg', absorb cfg len d s = absorb cfg' len d s := by
    refine fun h cfg cfg' => absorb_congr fun _ => ?_
    rw [absorbBytes_of_room cfg (by rwa [length_messageBytes]), absorbBytes_of_room cfg' (by rwa [length_messageBytes])]
  refine ⟨hfits, (fillBuffer s (messageBytes len.toNat d)).cv ^^^ (fillBuffer s (messageBytes len.toNat d)).buf,
    fun cfg cfg' h => ?_⟩
  by_cases hover : s.bufLen.val + len.toNat ≤ 16
  · exact hfits hover cfg cfg'
  · refine absorb_congr fun hl => ?_
    have hbeat : (messageBytes len.toNat d).length ≤ 16 := by rwa [length_messageBytes]
    have hlong : 16 < s.bufLen.val + (messageBytes len.toNat d).length := by rw [length_messageBytes]; omega
    rw [absorbBytes_of_overflow cfg hbeat hlong, absorbBytes_of_overflow cfg' hbeat hlong, h]

end Sys2Proof.Machine
end

section
/-! PROOFS about whole messages: the registers while one is absorbed, the agreement of the commands with `Compute`
(R136), at the ports too, and the pseudo-commands (R81). -/

namespace Sys2Proof.Machine

/-! ### The registers while a message is absorbed -/

/-- The chaining value looks at no byte behind the blocks it has chained. -/
theorem chainValue_append (cfg : Config) (rawKey iv : Block) (m l : List Byte) {q : Nat} (h : 16 * q ≤ m.length) :
    chainValue cfg rawKey iv (m ++ l) q = chainValue cfg rawKey iv m q := by
  induction q with
  | zero => rfl
  | succ q ih =>
    have hblock : messageBlock (m ++ l) q = messageBlock m q := by
      rw [messageBlock, messageBlock, List.drop_append_of_le_length (by omega),
        List.take_append_of_le_length (by rw [List.length_drop]; omega)]
    rw [chainValue, ih (by omega), hblock, chainValue]

/-- The state INIT and any bytes leave: all blocks but the last are chained, and the last is in the buffer. -/
def messageState (cfg : Config) (iv : Block) (s : State) (m : List Byte) : State :=
  (State.withCv { s with ma := true } (chainValue cfg s.key iv m ((m.length - 1) / 16))).withRow
    (m.drop (16 * ((m.length - 1) / 16)))

theorem absorbByte_messageState (cfg : Config) (iv : Block) (s : State) (m : List Byte) (b : Byte) :
    absorbByte cfg (messageState cfg iv s m) b = messageState cfg iv s (m ++ [b]) := by
  have hlen : (m ++ [b]).length = m.length + 1 := List.length_append
  by_cases hfull : (m.drop (16 * ((m.length - 1) / 16))).length = 16
  · have hrow := hfull
    rw [List.length_drop] at hrow
    have hq : ((m ++ [b]).length - 1) / 16 = (m.length - 1) / 16 + 1 := by omega
    have hend : 16 * ((m.length - 1) / 16 + 1) = m.length := by omega
    have hblock : blockOfBytes (m.drop (16 * ((m.length - 1) / 16))) = messageBlock m ((m.length - 1) / 16) := by
      rw [messageBlock, List.take_of_length_le (Nat.le_of_eq hfull)]
    rw [messageState, absorbByte_withRow_of_full cfg _ hfull, messageState, hq, hend, List.drop_left,
      chainValue_append cfg _ _ _ _ (Nat.le_of_eq hend), hblock]
    rfl
  · have hroom : (m.drop (16 * ((m.length - 1) / 16))).length < 16 := by
      rw [List.length_drop] at hfull ⊢
      omega
    have hrow := hroom
    rw [List.length_drop] at hrow
    have hq : ((m ++ [b]).length - 1) / 16 = (m.length - 1) / 16 := by omega
    rw [messageState, absorbByte_withRow_of_room cfg _ hroom, messageState, hq,
      chainValue_append cfg _ _ _ _ (by omega), List.drop_append_of_le_length (by omega)]

theorem absorbBytes_beginMessage (cfg : Config) (iv : Block) (s : State) (m : List Byte) :
    absorbBytes cfg (beginMessage iv s) m = messageState cfg iv s m := by
  induction m using List.reverseRecOn with
  | nil =>
    rw [messageState, List.drop_nil, withRow_nil]
    rfl
  | append_singleton m b ih =>
    rw [absorbBytes_append, ih, absorbBytes_cons, absorbBytes_nil, absorbByte_messageState]

/-- The bytes in the buffer: none for the empty message, and otherwise 1 to 16. -/
theorem length_lastRow (m : List Byte) :
    (m.drop (16 * ((m.length - 1) / 16))).length = if m = [] then 0 else (m.length - 1) % 16 + 1 := by
  rw [List.length_drop]
  split
  case isTrue h => rw [h]; rfl
  case isFalse h =>
    have hpos : 0 < m.length := List.length_pos_iff.mpr h
    omega

/-- Settles O46, byte by byte: a byte is appended to the row in the buffer, and a full row is chained before. -/
theorem registersAfterAbsorbing : Obligations.RegistersAfterAbsorbing := by
  intro cfg s iv m
  rw [absorbBytes_beginMessage, messageState, State.withRow, length_lastRow]
  rfl

/-! ### Beats -/

section
variable (cfg : Config) {s : State} (he : s.err = .none) (hk : s.kv = true) (hm : s.ma = true)
include he hk hm

/-- A legal beat runs the byte steps over its bytes. -/
theorem absorb_beat {d : List Byte} (hd : d.length ≤ 16) :
    absorb cfg (BitVec.ofNat 8 d.length) (blockOfBytes d) s = absorbBytes cfg s d := by
  have hlen : (BitVec.ofNat 8 d.length).toNat = d.length := Nat.mod_eq_of_lt (by omega)
  rw [absorb_of_legal cfg _ he hk hm (by rwa [hlen]), hlen, messageBytes_blockOfBytes d hd]

/-- Beats run the byte steps over their concatenation (R137). -/
theorem foldl_absorb_beats {beats : List (List Byte)} (hbeats : ∀ d ∈ beats, d.length ≤ 16) :
    beats.foldl (fun u d => absorb cfg (BitVec.ofNat 8 d.length) (blockOfBytes d) u) s =
      absorbBytes cfg s beats.flatten := by
  induction beats generalizing s with
  | nil => rfl
  | cons d beats ih =>
    obtain ⟨hd, hrest⟩ := List.forall_mem_cons.mp hbeats
    obtain ⟨-, -, -, -, hkv, hma, -, herr, -⟩ := absorbBytes_frame cfg d s
    rw [List.foldl_cons, absorb_beat cfg he hk hm hd,
      ih (herr.trans he) (hkv.trans hk) (hma.trans hm) hrest, List.flatten_cons, absorbBytes_append]

end

/-- Every command answers a next state, so a sequence of commands is a fold of their effects. -/
theorem execAll_eq_foldl (l : List Instr) (s : State) :
    execAll l s = .next (l.foldl (fun u i => commandEffect Config.hardware i u) s) := by
  induction l generalizing s with
  | nil => rfl
  | cons i l ih => rw [execAll_cons, ih, List.foldl_cons]

/-- Settles O47: each legal beat runs the byte steps over its bytes, and leaves a message in progress. -/
theorem beatsDependOnTheirConcatenation : Obligations.BeatsDependOnTheirConcatenation := by
  intro beats s he hk hm hbeats
  rw [execAll_eq_foldl, List.foldl_map]
  exact congrArg _ (foldl_absorb_beats Config.hardware he hk hm hbeats)

/-! ### The agreement with `Compute` (R136) -/

/-- With the subkeys of `km` FINAL forms the last block of `Compute` (R127, R135). -/
theorem finalBlock_messageState (cfg : Config) (iv : Block) {s : State} {km : KeyMaterial} (h1 : s.k1 = km.subkey1)
    (h2 : s.k2 = km.subkey2) (m : List Byte) : finalBlock (messageState cfg iv s m) = lastBlock km m := by
  have hlen := length_lastRow m
  have hcount : (messageState cfg iv s m).bufLen.val = (m.drop (16 * ((m.length - 1) / 16))).length :=
    withRow_bufLen_val _ (by rw [hlen]; split <;> omega)
  have hcond : (m.drop (16 * ((m.length - 1) / 16))).length = 16 ↔ 0 < m.length ∧ m.length % 16 = 0 := by
    rw [List.length_drop]
    omega
  rw [finalBlock_eq_ite, hcount, lastBlock_eq_ite, blockCount_pred, ← h1, ← h2]
  exact if_congr hcond rfl rfl

section
variable (cfg : Config) (k iv : Block) {s : State} (he : s.err = .none)
include he

/-- FINAL in a message begun under the KeyMaterial of `k` delivers the reference tag. -/
theorem final_messageState (m : List Byte) :
    final cfg (messageState cfg iv (storeKey (newKeyMaterial cfg k) s) m) =
      endMessage (compute cfg (newKeyMaterial cfg k) iv m) (storeKey (newKeyMaterial cfg k) s) := by
  have hblock := finalBlock_messageState cfg iv (s := storeKey (newKeyMaterial cfg k) s) (km := newKeyMaterial cfg k)
    rfl rfl m
  rw [final_of_active cfg (s := messageState cfg iv (storeKey (newKeyMaterial cfg k) s) m) he rfl rfl, hblock, compute,
    blockCount_pred]
  rfl

variable (hm : s.ma = false)
include hm

/-- LOADKEY and INIT in NOKEY or IDLE begin a message under the KeyMaterial of the operand. -/
theorem init_loadkey : init iv (loadkey cfg k s) = beginMessage iv (storeKey (newKeyMaterial cfg k) s) := by
  rw [loadkey_of_inactive cfg k he hm, init_of_key iv (s := storeKey (newKeyMaterial cfg k) s) he rfl]

/-- The commands of a message leave the stored key and the reference tag, however the message is cut (R136). -/
theorem final_beats_init_loadkey {beats : List (List Byte)} (hbeats : ∀ d ∈ beats, d.length ≤ 16) :
    final cfg (beats.foldl (fun u d => absorb cfg (BitVec.ofNat 8 d.length) (blockOfBytes d) u)
        (init iv (loadkey cfg k s))) =
      endMessage (compute cfg (newKeyMaterial cfg k) iv beats.flatten) (storeKey (newKeyMaterial cfg k) s) := by
  rw [init_loadkey cfg k iv he hm,
    foldl_absorb_beats cfg (s := beginMessage iv (storeKey (newKeyMaterial cfg k) s)) he rfl rfl hbeats,
    absorbBytes_beginMessage, final_messageState cfg k iv he]

end

/-- Settles O48: the state left is the one with the tag delivered and the key stored, whose registers can be read
off. -/
theorem commandsAgreeWithComputeForEveryCipher : Obligations.CommandsAgreeWithComputeForEveryCipher :=
  fun cfg k iv _ s he hm hbeats =>
    ⟨_, (final_beats_init_loadkey cfg k iv he hm hbeats).symm, rfl, rfl,
      phase_of_idle (s := endMessage _ (storeKey (newKeyMaterial cfg k) s)) he rfl rfl, rfl, rfl, rfl, rfl⟩

/-! ### The same on this hardware, and at the ports -/

/-- The state a message leaves on this hardware. -/
def afterMessage (k iv : Block) (m : List Byte) (s : State) : State :=
  endMessage (compute Config.hardware (newKeyMaterial Config.hardware k) iv m)
    (storeKey (newKeyMaterial Config.hardware k) s)

/-- The commands of a message cut into beats. -/
def messageCommands (k iv : Block) (beats : List (List Byte)) : List Instr :=
  [.loadkey k, .init iv] ++ beats.map absorbBeat ++ [.final]

/-- An assembled beat has no bit set behind its bytes (R80). -/
theorem wellFormed_absorbBeat {d : List Byte} (hd : d.length ≤ 16) : (absorbBeat d).wellFormed = true := by
  have hlen : (BitVec.ofNat 8 d.length).toNat = d.length := Nat.mod_eq_of_lt (by omega)
  have hkeep : keepBytes (BitVec.ofNat 8 d.length) (blockOfBytes d) = blockOfBytes d := by
    refine block_ext fun i hi => ?_
    by_cases hlt : i < d.length
    · exact byte_keepBytes _ _ hi (by rwa [hlen])
    · rw [byte_keepBytes_of_le _ _ hi (by omega), byte_blockOfBytes _ _ hi, List.getD_eq_default _ _ (by omega)]
  have hcanonical := keepBytes_canonical (BitVec.ofNat 8 d.length) (blockOfBytes d)
  rwa [hkeep] at hcanonical

section
variable (k iv : Block) {beats : List (List Byte)} (hbeats : ∀ d ∈ beats, d.length ≤ 16)
include hbeats

theorem execAll_messageCommands {s : State} (he : s.err = .none) (hm : s.ma = false) :
    execAll (messageCommands k iv beats) s = .next (afterMessage k iv beats.flatten s) := by
  rw [execAll_eq_foldl, messageCommands, List.foldl_append, List.foldl_append, List.foldl_map]
  exact congrArg _ (final_beats_init_loadkey Config.hardware k iv he hm hbeats)

theorem wellFormed_messageCommands : ∀ i ∈ messageCommands k iv beats, i.wellFormed = true := by
  intro i hi
  simp only [messageCommands, List.mem_append, List.mem_cons, List.mem_map, List.not_mem_nil, or_false] at hi
  obtain ((rfl | rfl) | ⟨d, hd, rfl⟩) | rfl := hi
  · rfl
  · rfl
  · exact wellFormed_absorbBeat (hbeats d hd)
  · rfl

end

theorem length_messageCommands (k iv : Block) (beats : List (List Byte)) :
    (messageCommands k iv beats).length = beats.length + 3 := by
  simp [messageCommands]

section
variable (k iv : Block) (m : List Byte) {s : State} (he : s.err = .none)
include he

theorem phase_afterMessage : phase (afterMessage k iv m s) = .idle :=
  phase_of_idle (s := afterMessage k iv m s) he rfl rfl

/-- KV and DV are set and nothing else (R32). -/
theorem status_afterMessage : status (afterMessage k iv m s) = 0x0005#16 := by
  have herr : (afterMessage k iv m s).err = .none := he
  have hlen : bufLenBits (afterMessage k iv m s) = 0#5 := rfl
  have hkv : (afterMessage k iv m s).kv = true := rfl
  have hma : (afterMessage k iv m s).ma = false := rfl
  have hdv : (afterMessage k iv m s).dv = true := rfl
  rw [status, faultFlag, herr, hlen, hkv, hma, hdv]
  decide

end

/-- Settles O49: the run executes the presented commands in order, and they are the commands of the message. -/
theorem portRunDeliversReferenceTag : Obligations.PortRunDeliversReferenceTag := by
  intro k iv beats rest s he hm hbeats hin
  have hrun := runExecutesCommandsInOrder (messageCommands k iv beats) rest s
    (wellFormed_messageCommands k iv hbeats) hin
  rw [length_messageCommands,
    execAll_messageCommands k iv hbeats (s := { s with inputs := rest }) he hm] at hrun
  exact ⟨_, hrun, rfl, status_afterMessage k iv _ (s := { s with inputs := rest }) he,
    phase_afterMessage k iv _ (s := { s with inputs := rest }) he, rfl, rfl⟩

/-! ### The pseudo-commands (R81) -/

/-- The message cut into pieces of sixteen bytes. -/
def fullBeats (m : List Byte) (n : Nat) : List (List Byte) := (List.range n).map fun i => (m.drop (16 * i)).take 16

theorem absorbMsg_eq_map (m : List Byte) : absorbMsg m = (fullBeats m ((m.length + 15) / 16)).map absorbBeat := by
  rw [absorbMsg, fullBeats, List.map_map]
  rfl

theorem fullBeats_succ (m : List Byte) (n : Nat) :
    fullBeats m (n + 1) = fullBeats m n ++ [(m.drop (16 * n)).take 16] := by
  rw [fullBeats, List.range_succ, List.map_append, fullBeats]
  rfl

theorem flatten_fullBeats (m : List Byte) (n : Nat) : (fullBeats m n).flatten = m.take (16 * n) := by
  induction n with
  | zero => rfl
  | succ n ih =>
    rw [fullBeats_succ, List.flatten_append, ih, Nat.mul_succ, List.take_add]
    simp

theorem mem_fullBeats {m d : List Byte} {n : Nat} : d ∈ fullBeats m n ↔ ∃ i < n, (m.drop (16 * i)).take 16 = d := by
  simp [fullBeats]

/-- The beats of `ABSORBMSG` carry the message, are not empty and are full but for the last. -/
theorem fullBeats_spec (m : List Byte) :
    (fullBeats m ((m.length + 15) / 16)).flatten = m ∧
    (∀ d ∈ fullBeats m ((m.length + 15) / 16), 1 ≤ d.length ∧ d.length ≤ 16) ∧
    (∀ d ∈ (fullBeats m ((m.length + 15) / 16)).dropLast, d.length = 16) := by
  refine ⟨?_, fun d hd => ?_, fun d hd => ?_⟩
  · rw [flatten_fullBeats, List.take_of_length_le (by omega)]
  · obtain ⟨i, hi, rfl⟩ := mem_fullBeats.mp hd
    rw [List.length_take, List.length_drop]
    omega
  · cases hn : (m.length + 15) / 16 with
    | zero =>
      rw [hn] at hd
      nomatch hd
    | succ n =>
      rw [hn, fullBeats_succ, List.dropLast_concat] at hd
      obtain ⟨i, hi, rfl⟩ := mem_fullBeats.mp hd
      rw [List.length_take, List.length_drop]
      omega

theorem cmac_eq_messageCommands (k iv : Block) (m : List Byte) :
    cmac k iv m = messageCommands k iv (fullBeats m ((m.length + 15) / 16)) := by
  rw [cmac, absorbMsg_eq_map, messageCommands]

/-- NEWKEY leaves the cleared state with the KeyMaterial stored. -/
theorem execAll_newkey (k : Block) (s : State) :
    execAll (newkey k) s = .next (storeKey (newKeyMaterial Config.hardware k) s.clear) := by
  rw [newkey, execAll_cons, execAll_cons, execAll]
  exact congrArg _ (loadkey_of_inactive Config.hardware k rfl rfl)

/-- Settles O50: CMAC's beats are those of `ABSORBMSG`, so it is a message; NEWKEY is CLR and LOADKEY in NOKEY. -/
theorem cmacPseudoCommandComputesTag : Obligations.CmacPseudoCommandComputesTag := by
  refine ⟨fun k iv m => ⟨_, cmac_eq_messageCommands k iv m, fullBeats_spec m⟩, fun k iv m s he hm => ?_,
    fun k s => ⟨_, execAll_newkey k s, rfl, rfl, rfl, rfl, rfl, rfl⟩⟩
  obtain ⟨hflat, hlen, -⟩ := fullBeats_spec m
  have hexec := execAll_messageCommands k iv (fun d hd => (hlen d hd).2) he hm
  rw [hflat, ← cmac_eq_messageCommands] at hexec
  exact ⟨_, hexec, rfl, phase_afterMessage k iv m he, rfl⟩

end Sys2Proof.Machine
end

section
/-! PROOFS about the work of the core (R196): the spec's count of evaluations against the dependence of `exec` on the
cipher, and the count of a whole message. -/

namespace Sys2Proof.Machine

/-! ### On how many arguments of the cipher a state depends -/

/-- `f` depends on the cipher at `n` arguments, where `n` is 0 or 1. -/
def DependsOnCipherAt (n : Nat) (f : Config → State) : Prop :=
  n ≤ 1 ∧ (n = 0 ↔ ∀ cfg cfg', f cfg = f cfg') ∧
  ∃ k x : Block, ∀ cfg cfg', cfg.encrypt k x = cfg'.encrypt k x → f cfg = f cfg'

theorem dependsOnCipherAt_zero {f : Config → State} (h : ∀ cfg cfg', f cfg = f cfg') : DependsOnCipherAt 0 f :=
  ⟨Nat.zero_le 1, iff_of_true rfl h, 0#128, 0#128, fun cfg cfg' _ => h cfg cfg'⟩

/-- The cipher that answers `v` always. -/
def constantCipher (v : Block) : Config := { encrypt := fun _ _ => v }

theorem zero_ne_one_block : (0#128 : Block) ≠ 1#128 := by decide

theorem dbl_zero_ne_dbl_one : dbl 0#128 ≠ dbl 1#128 := by decide

/-- A function of the cipher's value at one argument depends on it if it tells two values apart. -/
theorem dependsOnCipherAt_one {f : Config → State} (k x : Block) (F : Block → State)
    (hf : ∀ cfg, f cfg = F (cfg.encrypt k x)) (hF : F 0#128 ≠ F 1#128) : DependsOnCipherAt 1 f := by
  refine ⟨Nat.le_refl 1, iff_of_false Nat.one_ne_zero fun h => hF ?_, k, x, fun cfg cfg' h => ?_⟩
  · have hconst := h (constantCipher 0#128) (constantCipher 1#128)
    rwa [hf, hf] at hconst
  · rw [hf, hf, h]

/-! ### The count of a command -/

/-- The spec's count for a command whose checks pass. -/
def evaluationsOfWrites (i : Instr) (s : State) : Nat :=
  match i with
  | .nop => 0
  | .loadkey _ => 1
  | .init _ => 0
  | .absorb len _ => if 16 < s.bufLen.val + len.toNat then 1 else 0
  | .final => 1
  | .enc _ => 1
  | .rdkey => 0
  | .rdk1 => 0
  | .rdk2 => 0
  | .clr => 0

theorem encryptEvaluations_of_execute {i : Instr} {s : State} (h : verdict i s = .execute) :
    encryptEvaluations i s = evaluationsOfWrites i s := by
  unfold encryptEvaluations
  rw [if_pos h]
  cases i <;> rfl

theorem encryptEvaluations_of_not_execute {i : Instr} {s : State} (h : verdict i s ≠ .execute) :
    encryptEvaluations i s = 0 := by
  unfold encryptEvaluations
  rw [if_neg h]

/-- The last check has an ABSORB that executes at most sixteen bytes long. -/
theorem length_le_of_execute {len : Byte} {d : Block} {s : State} (h : verdict (.absorb len d) s = .execute) :
    len.toNat ≤ 16 := by
  by_contra hlong
  have hover : overLong (.absorb len d) = true := decide_eq_true (Nat.lt_of_not_le hlong)
  rw [verdict, if_neg (c := alwaysExecutes (.absorb len d) = true) Bool.false_ne_true, if_pos hover] at h
  split_ifs at h

/-- Of an ABSORB's byte steps: one argument exactly if the buffer overflows. -/
theorem absorbBytes_dependsOnCipher (s : State) {l : List Byte} (hl : l.length ≤ 16) :
    DependsOnCipherAt (if 16 < s.bufLen.val + l.length then 1 else 0) (fun cfg => absorbBytes cfg s l) := by
  split
  case isTrue h =>
    refine dependsOnCipherAt_one s.key _ (restartBuffer s l) (fun cfg => absorbBytes_of_overflow cfg hl h) fun heq => ?_
    have hcv := congrArg State.cv heq
    rw [restartBuffer_cv, restartBuffer_cv] at hcv
    exact zero_ne_one_block hcv
  case isFalse h =>
    refine dependsOnCipherAt_zero fun cfg cfg' => ?_
    rw [absorbBytes_of_room cfg (by omega), absorbBytes_of_room cfg' (by omega)]

/-- The writes of a command depend on the cipher at as many arguments as the spec counts. -/
theorem commandWrites_dependsOnCipher {i : Instr} {s : State} (h : verdict i s = .execute) :
    DependsOnCipherAt (encryptEvaluations i s) (fun cfg => commandWrites cfg i s) := by
  rw [encryptEvaluations_of_execute h]
  cases i with
  | loadkey key =>
    refine dependsOnCipherAt_one key 0#128 (fun v => storeKey ⟨key, dbl v, dbl (dbl v)⟩ s) (fun _ => rfl) fun heq => ?_
    have hk1 := congrArg State.k1 heq
    simp only [storeKey_k1] at hk1
    exact dbl_zero_ne_dbl_one hk1
  | absorb len d =>
    have hdep := absorbBytes_dependsOnCipher s (l := messageBytes len.toNat d)
      (by rw [length_messageBytes]; exact length_le_of_execute h)
    rwa [length_messageBytes] at hdep
  | final =>
    refine dependsOnCipherAt_one s.key (s.cv ^^^ finalBlock s) (fun v => endMessage v s) (fun _ => rfl) fun heq => ?_
    exact zero_ne_one_block (congrArg State.dout heq)
  | enc block =>
    refine dependsOnCipherAt_one s.key block (fun v => deliver v s) (fun _ => rfl) fun heq => ?_
    exact zero_ne_one_block (congrArg State.dout heq)
  | _ => exact dependsOnCipherAt_zero fun _ _ => rfl

theorem commandEffect_dependsOnCipher (i : Instr) (s : State) :
    DependsOnCipherAt (encryptEvaluations i s) (fun cfg => commandEffect cfg i s) := by
  simp only [commandEffect_eq_outcome]
  cases hv : verdict i s with
  | execute => exact commandWrites_dependsOnCipher hv
  | ignore =>
    have hne : verdict i s ≠ .execute := fun h => Verdict.noConfusion (hv.symm.trans h)
    simp only [encryptEvaluations_of_not_execute hne, outcome_ignore]
    exact dependsOnCipherAt_zero fun _ _ => rfl
  | fault c =>
    have hne : verdict i s ≠ .execute := fun h => Verdict.noConfusion (hv.symm.trans h)
    simp only [encryptEvaluations_of_not_execute hne, outcome_fault]
    exact dependsOnCipherAt_zero fun _ _ => rfl

/-- Settles O58: a command that is ignored or faults reads no cipher, and each that executes reads it at the argument
counted. -/
theorem evaluationCountIsDependenceOnCipher : Obligations.EvaluationCountIsDependenceOnCipher :=
  fun i s => ⟨exec_eq_commandEffect i s, commandEffect_dependsOnCipher i s⟩

/-! ### The count of a message -/

theorem sequenceEvaluations_cons (i : Instr) (l : List Instr) (s : State) :
    sequenceEvaluations (i :: l) s =
      encryptEvaluations i s + sequenceEvaluations l (commandEffect Config.hardware i s) := by
  rw [sequenceEvaluations, exec_eq_commandEffect]

section
variable {s : State} (he : s.err = .none) (hk : s.kv = true) (hm : s.ma = true)
include he hk hm

theorem encryptEvaluations_absorbBeat {d : List Byte} (hd : d.length ≤ 16) :
    encryptEvaluations (absorbBeat d) s = (s.bufLen.val + d.length - 1) / 16 := by
  have hlen : (BitVec.ofNat 8 d.length).toNat = d.length := Nat.mod_eq_of_lt (by omega)
  have hv : verdict (absorbBeat d) s = .execute := by
    simp [absorbBeat, verdict, alwaysExecutes, needsKey, outOfOrder, overLong, he, hk, hm]
    omega
  have hbuf := s.bufLen.isLt
  rw [encryptEvaluations_of_execute hv]
  simp only [absorbBeat, evaluationsOfWrites, hlen]
  split <;> omega

theorem encryptEvaluations_final : encryptEvaluations .final s = 1 :=
  encryptEvaluations_of_execute (by simp [verdict, alwaysExecutes, needsKey, outOfOrder, overLong, he, hk, hm])

/-- In a message, the beats still to come and FINAL cost one evaluation for each block that their bytes and those in the
buffer make. -/
theorem sequenceEvaluations_beats_final {beats : List (List Byte)} (hbeats : ∀ d ∈ beats, d.length ≤ 16) :
    sequenceEvaluations (beats.map absorbBeat ++ [.final]) s = (s.bufLen.val + beats.flatten.length - 1) / 16 + 1 := by
  induction beats generalizing s with
  | nil =>
    have hbuf := s.bufLen.isLt
    have hnone : (s.bufLen.val + 0 - 1) / 16 = 0 := by omega
    rw [List.map_nil, List.nil_append, sequenceEvaluations_cons, encryptEvaluations_final he hk hm, List.flatten_nil,
      List.length_nil, hnone]
    rfl
  | cons d beats ih =>
    obtain ⟨hd, hrest⟩ := List.forall_mem_cons.mp hbeats
    obtain ⟨-, -, -, -, hkv, hma, -, herr, -⟩ := absorbBytes_frame Config.hardware d s
    have heffect : commandEffect Config.hardware (absorbBeat d) s = absorbBytes Config.hardware s d :=
      absorb_beat Config.hardware he hk hm hd
    rw [List.map_cons, List.cons_append, sequenceEvaluations_cons, encryptEvaluations_absorbBeat he hk hm hd, heffect,
      ih (herr.trans he) (hkv.trans hk) (hma.trans hm) hrest, List.flatten_cons, List.length_append]
    by_cases hnil : d = []
    · subst hnil
      rw [List.length_nil, absorbBytes_nil]
      omega
    · have hpos : 0 < d.length := List.length_pos_iff.mpr hnil
      rw [absorbBytes_bufLen _ s hnil]
      omega

end

/-- Settles O51: LOADKEY costs one evaluation, INIT none, and the beats and FINAL one for each block, counted from the
empty buffer. -/
theorem messageCostsOneEvaluationPerBlock : Obligations.MessageCostsOneEvaluationPerBlock := by
  intro k iv beats s he hm hbeats
  have hload : commandEffect Config.hardware (.loadkey k) s = storeKey (newKeyMaterial Config.hardware k) s :=
    loadkey_of_inactive Config.hardware k he hm
  have hinit : commandEffect Config.hardware (.init iv) (storeKey (newKeyMaterial Config.hardware k) s) =
      beginMessage iv (storeKey (newKeyMaterial Config.hardware k) s) := init_of_key iv he rfl
  have hload1 : encryptEvaluations (.loadkey k) s = 1 :=
    encryptEvaluations_of_execute (by simp [verdict, alwaysExecutes, needsKey, outOfOrder, overLong, he, hm])
  have hinit0 : encryptEvaluations (.init iv) (storeKey (newKeyMaterial Config.hardware k) s) = 0 :=
    encryptEvaluations_of_execute (by simp [verdict, alwaysExecutes, needsKey, outOfOrder, overLong, he])
  have hbeats' := sequenceEvaluations_beats_final
    (s := beginMessage iv (storeKey (newKeyMaterial Config.hardware k) s)) he rfl rfl hbeats
  have hcount : (0 + beats.flatten.length - 1) / 16 + 1 = blockCount beats.flatten.length := by
    rw [Nat.zero_add, ← blockCount_pred, blockCount]
    split <;> omega
  rw [List.append_assoc, List.cons_append, sequenceEvaluations_cons, List.cons_append, sequenceEvaluations_cons, hload1,
    hload, hinit0, hinit, List.nil_append, hbeats', beginMessage_bufLen, Fin.val_zero, hcount, Nat.zero_add]

end Sys2Proof.Machine
end
